-- ==== Sys2Proof/Word.lean ====
section
/-! DEFINITION. The word types of the APC (spec/00_scope.md R8, R11). -/

namespace Sys2Proof

/-- `Byte` of R11: 8 bits, unsigned. -/
abbrev Byte := BitVec 8

/-- A 32-bit container: `RES`, `a_dat`, `poll_cnt` (R20). -/
abbrev Word := BitVec 32

/-- A register address as the four bits that carry it (R20 `a_reg`, R105). -/
abbrev RegAddr := BitVec 4

/-- The packed host request `REQ[55:0]` (R110). -/
abbrev ReqWord := BitVec 56

end Sys2Proof
end

