-- ==== Sys2Proof/Config.lean ====
section
/-! DEFINITION. The parameters of one instance, `Cfg` of spec/00_scope.md R7: constants, not state (R32). What the spec leaves OPEN is an opaque constant of `Config`. -/

namespace Sys2Proof

/-- `Level` of R11: what `digital_read` answers. -/
inductive Level where
  | low
  | high
deriving DecidableEq, Repr, Inhabited

/-- The other level: R10's `notready` is the level that is not `READY_LEVEL`. -/
def Level.other : Level → Level
  | .low => .high
  | .high => .low

/-- `ON_PIN_READ_ERROR` (R7, R175). -/
inductive PinErrorPolicy where
  | propagateError
  | treatAsReady
deriving DecidableEq, Repr, Inhabited

/-- The timeout policy `tp` a wait is given (R172), and the type of `ON_WRITE_WAIT_TIMEOUT` (R7, R177). -/
inductive TimeoutPolicy where
  | propagate
  | suppress
deriving DecidableEq, Repr, Inhabited

/-- `INVALID_CHANNEL_POLICY` (R7, R193): the only value the source defines. -/
inductive InvalidChannelPolicy where
  | silentNoOp
deriving DecidableEq, Repr, Inhabited

/-- `ON_SHORT_TRANSFER` (R7, R78): the only value the spec defines. -/
inductive ShortTransferPolicy where
  | error
deriving DecidableEq, Repr, Inhabited

/-- The `bit order` field of `TransportCfg` (R77). -/
inductive BitOrder where
  | msbFirst
  | lsbFirst
deriving DecidableEq, Repr, Inhabited

/-- `TransportCfg` (R7, R77): applied by the environment once at startup; the APC never reads it. -/
structure TransportCfg where
  clockHz : Nat
  clockMode : Nat
  bitOrder : BitOrder
  wordBits : Nat
  csActive : Level
deriving DecidableEq, Repr, Inhabited

/-- The record `Cfg` of R7. `pollBound` has 32 bits because R172 bounds `POLL_BOUND` by 2^32 - 1. -/
structure Cfg where
  pollBound : Word
  onPinReadError : PinErrorPolicy
  onWriteWaitTimeout : TimeoutPolicy
  invalidChannelPolicy : InvalidChannelPolicy
  onShortTransfer : ShortTransferPolicy
  readyLevel : Level
  settleDelay : Nat
  drdyPinId : Nat
  csPinId : Nat
  transport : TransportCfg
deriving DecidableEq, Repr, Inhabited

/-- The level that is not the ready one (R10). -/
def Cfg.notReadyLevel (c : Cfg) : Level := c.readyLevel.other

namespace Config

/-- `COMMON_NEG_CODE`, fixed 0x8 (R7, R190). -/
def commonNegCode : BitVec 4 := 0x8#4

/-- `NUM_REGS`, fixed 11 (R7, R33). -/
def numRegs : Nat := 11

/-- `SAMPLE_BITS`, fixed 24 (R7). -/
def sampleBits : Nat := 24

/-- `RESULT_BITS`, fixed 32 (R7). -/
def resultBits : Nat := 32

/-- The default of `POLL_BOUND` (R7). -/
def defaultPollBound : Word := 400000#32

/-- OPEN (R7, D11: "do not guess"). -/
opaque onPinReadError : PinErrorPolicy

/-- OPEN (R7, D12). -/
opaque onWriteWaitTimeout : TimeoutPolicy

/-- OPEN (R7, D21). -/
opaque readyLevel : Level

/-- OPEN (R7, D19): a duration in no stated unit; no rule depends on its length (R320). -/
opaque settleDelay : Nat

/-- OPEN (R7, D35). -/
opaque drdyPinId : Nat

/-- OPEN (R7, D35); used by the environment only. -/
opaque csPinId : Nat

/-- OPEN but for the word size, fixed at 8 (R7, R77). -/
opaque clockHz : Nat

/-- OPEN (R77). -/
opaque clockMode : Nat

/-- OPEN (R77). -/
opaque bitOrder : BitOrder

/-- OPEN (R77: "commonly active-low" is no value). -/
opaque csActive : Level

/-- The `Cfg` of the instance `State.reset` describes: what the spec fixes is fixed, every OPEN parameter is one of the
opaque constants above, `POLL_BOUND` is R7's default (log 6). -/
def cfg : Cfg where
  pollBound := defaultPollBound
  onPinReadError := onPinReadError
  onWriteWaitTimeout := onWriteWaitTimeout
  invalidChannelPolicy := .silentNoOp
  onShortTransfer := .error
  readyLevel := readyLevel
  settleDelay := settleDelay
  drdyPinId := drdyPinId
  csPinId := csPinId
  transport := {
    clockHz := clockHz, clockMode := clockMode, bitOrder := bitOrder,
    wordBits := 8, csActive := csActive }

end Config

end Sys2Proof
end

