-- ==== Sys2Proof/Syntax.lean ====
section
/-! DEFINITION. The instructions: one constructor per row of spec/opcode_table.json (30_encoding.md R104, R111). -/

namespace Sys2Proof

/-- The operand fields of a host request (R110). Every operation latches all of them (R30), those it does not use too,
so each host operation carries them all. -/
structure Fields where
  reg : RegAddr
  pin : Byte
  cmd : Byte
  dat : Word
deriving DecidableEq, Repr

/-- The host request record of R110. `op` is any four bits: R30 latches an unassigned code as well. -/
structure Request where
  op : BitVec 4
  fields : Fields
deriving DecidableEq, Repr

/-- One constructor per opcode row. The first fourteen are the wire commands of R104, the last eight the host operations
of R111. `countM1` is the count byte of a read-register frame (R102); the count byte of a write-register frame is
determined by its payload (R103). -/
inductive Instr where
  | wakeup
  | readData
  | readDataContinuous
  | stopContinuous
  | readReg (reg : RegAddr) (countM1 : Byte)
  | writeReg (reg : RegAddr) (values : List Byte)
  | selfCal
  | selfOffsetCal
  | selfGainCal
  | systemOffsetCal
  | systemGainCal
  | sync
  | standby
  | reset
  | wreg (f : Fields)
  | rreg (f : Fields)
  | rdid (f : Fields)
  | waitrdy (f : Fields)
  | selch (f : Fields)
  | acq (f : Fields)
  | config (f : Fields)
  | cmd (f : Fields)
deriving DecidableEq, Repr

/-- How an instruction is presented to the APC: a packed host request (R110), or the bytes of one wire frame
(R100 to R103), which stands for the host operation that sends exactly that frame (log 1). -/
inductive Presented where
  | request (w : ReqWord)
  | frame (bytes : List Byte)
deriving DecidableEq, Repr

end Sys2Proof
end

