-- ==== Sys2Proof/Decode.lean ====
section
/-! DEFINITION. From bits to instructions and back (spec/30_encoding.md): the packed host request (R110, R111) and the wire frames (R101 to R105, R115). Decoding is total and rejects by name. -/

namespace Sys2Proof

/-- Why a presented word or frame is no row of the opcode table. -/
inductive DecodeError where
  /-- `op` is 0x0 or 0x9 to 0xF (R114). -/
  | unassignedOp (op : BitVec 4)
  /-- The first byte is no wire command (R113). -/
  | undefinedCommand (b : Byte)
  /-- No byte at all. -/
  | emptyFrame
  /-- Fewer bytes than R115 gives the frame. -/
  | truncatedFrame
  /-- More bytes than R115 gives the frame. -/
  | overlongFrame
deriving DecidableEq, Repr

/-! ## The host request word (R110) -/

/-- The fields of `REQ`, by R110's bit table. -/
def unpackRequest (w : ReqWord) : Request where
  op := w.extractLsb' 52 4
  fields := {
    reg := w.extractLsb' 48 4
    pin := w.extractLsb' 40 8
    cmd := w.extractLsb' 32 8
    dat := w.extractLsb' 0 32 }

/-- `REQ` of a request: op, reg, pin, cmd, v3, v2, v1, v0 from the top (R110). -/
def packRequest (r : Request) : ReqWord :=
  r.op ++ (r.fields.reg ++ (r.fields.pin ++ (r.fields.cmd ++ r.fields.dat)))

/-- The host operation codes (R111). -/
def decodeRequest (w : ReqWord) : Except DecodeError Instr :=
  let r := unpackRequest w
  match r.op.toNat with
  | 1 => .ok (.wreg r.fields)
  | 2 => .ok (.rreg r.fields)
  | 3 => .ok (.rdid r.fields)
  | 4 => .ok (.waitrdy r.fields)
  | 5 => .ok (.selch r.fields)
  | 6 => .ok (.acq r.fields)
  | 7 => .ok (.config r.fields)
  | 8 => .ok (.cmd r.fields)
  | _ => .error (.unassignedOp r.op)

/-! ## Wire frames (R101 to R105) -/

/-- R104's twelve operand-less rows: byte and command. -/
def operandlessTable : List (Byte × Instr) :=
  [(0x00#8, .wakeup), (0x01#8, .readData), (0x03#8, .readDataContinuous), (0x0F#8, .stopContinuous),
   (0xF0#8, .selfCal), (0xF1#8, .selfOffsetCal), (0xF2#8, .selfGainCal),
   (0xF3#8, .systemOffsetCal), (0xF4#8, .systemGainCal),
   (0xFC#8, .sync), (0xFD#8, .standby), (0xFE#8, .reset)]

/-- READ_REG: match 0x10, mask 0xF0 (R104). -/
def isReadRegByte (b : Byte) : Bool := b &&& 0xF0#8 == 0x10#8

/-- WRITE_REG: match 0x50, mask 0xF0 (R104). -/
def isWriteRegByte (b : Byte) : Bool := b &&& 0xF0#8 == 0x50#8

/-- The register nibble of a first byte (R105). -/
def regNibble (b : Byte) : RegAddr := b.extractLsb' 0 4

/-- The bytes of one whole frame, by R101 to R103. A frame holds exactly the bytes R115 gives it. Register nibbles 11 to
15 are read like the others (R104's mask); that they name no register is the operation's affair (R147, R148). -/
def decodeFrame : List Byte → Except DecodeError Instr
  | [] => .error .emptyFrame
  | b :: rest =>
    if isReadRegByte b then
      match rest with
      | [] => .error .truncatedFrame
      | [c] => .ok (.readReg (regNibble b) c)
      | _ :: _ :: _ => .error .overlongFrame
    else if isWriteRegByte b then
      match rest with
      | [] => .error .truncatedFrame
      | c :: vs =>
        if vs.length = c.toNat + 1 then .ok (.writeReg (regNibble b) vs)
        else if vs.length < c.toNat + 1 then .error .truncatedFrame
        else .error .overlongFrame
    else
      match operandlessTable.lookup b with
      | none => .error (.undefinedCommand b)
      | some i => if rest.isEmpty then .ok i else .error .overlongFrame

/-- What is presented, decoded. -/
def decode : Presented → Except DecodeError Instr
  | .request w => decodeRequest w
  | .frame bytes => decodeFrame bytes

/-! ## The encoder -/

/-- The request a host operation is (R111). -/
def hostWord (op : BitVec 4) (f : Fields) : Presented := .request (packRequest ⟨op, f⟩)

/-- A one-byte frame, format `C` (R101). -/
def commandFrame (b : Byte) : Presented := .frame [b]

/-- The word or frame of an instruction, by R101 to R104, R110 and R111. -/
def encode : Instr → Presented
  | .wakeup => commandFrame 0x00#8
  | .readData => commandFrame 0x01#8
  | .readDataContinuous => commandFrame 0x03#8
  | .stopContinuous => commandFrame 0x0F#8
  | .readReg r c => .frame [0x1#4 ++ r, c]
  | .writeReg r vs => .frame ((0x5#4 ++ r) :: BitVec.ofNat 8 (vs.length - 1) :: vs)
  | .selfCal => commandFrame 0xF0#8
  | .selfOffsetCal => commandFrame 0xF1#8
  | .selfGainCal => commandFrame 0xF2#8
  | .systemOffsetCal => commandFrame 0xF3#8
  | .systemGainCal => commandFrame 0xF4#8
  | .sync => commandFrame 0xFC#8
  | .standby => commandFrame 0xFD#8
  | .reset => commandFrame 0xFE#8
  | .wreg f => hostWord 0x1#4 f
  | .rreg f => hostWord 0x2#4 f
  | .rdid f => hostWord 0x3#4 f
  | .waitrdy f => hostWord 0x4#4 f
  | .selch f => hostWord 0x5#4 f
  | .acq f => hostWord 0x6#4 f
  | .config f => hostWord 0x7#4 f
  | .cmd f => hostWord 0x8#4 f

/-! ## Words numbered as spec/opcode_table.json numbers them -/

/-- R115: how many bytes a frame has, from its first two bytes; one byte where the first is no command. -/
def frameLength (b0 b1 : Byte) : Nat :=
  if isReadRegByte b0 then 2
  else if isWriteRegByte b0 then 2 + (b1.toNat + 1)
  else 1

/-- Byte `i` of a table word: bits `8i` up of `w`, zero from bit `nbits` on. -/
def tableByte (nbits w i : Nat) : Byte :=
  if 8 * i < nbits then BitVec.ofNat 8 (w / 2 ^ (8 * i)) else 0#8

/-- The frame a table word of the wire space begins, as long as R115 makes it. -/
def tableFrame (nbits w : Nat) : List Byte :=
  (List.range (frameLength (tableByte nbits w 0) (tableByte nbits w 1))).map (tableByte nbits w)

/-- What is presented for a table word: the rows of 56 bits are host requests, the shorter ones begin with the first byte
of a wire frame (R110, R104). -/
def tablePresented (nbits w : Nat) : Presented :=
  if 56 ≤ nbits then .request (BitVec.ofNat 56 w) else .frame (tableFrame nbits w)

/-- The instruction the decoder reads from a table word. -/
def decodeTableWord (nbits w : Nat) : Option Instr := (decode (tablePresented nbits w)).toOption

end Sys2Proof
end

