-- ==== Sys2Proof/Machine/State.lean ====
section
/-! DEFINITION. The state: the APC's register record `S` (spec/10_state.md R20), and beside it the constants `Cfg`, the inputs the machine reads and the trace it leaves. Plain data throughout. -/

namespace Sys2Proof.Machine

/-- The two states of the Readiness Synchronizer (R24, R170). -/
inductive Sync where
  | polling
  | settled
deriving DecidableEq, Repr

/-- `SelLevel` of R11. -/
inductive SelLevel where
  | asserted
  | deasserted
deriving DecidableEq, Repr

/-- The outcome codes of R260; codes 5 to 7 are reserved and never produced. -/
inductive Status where
  | ok
  | transportError
  | timeoutError
  | invalidChannel
  | illegalRequest
deriving DecidableEq, Repr

/-- The six bytes `TXB[0..5]` (R20). -/
structure TxBuf where
  b0 : Byte
  b1 : Byte
  b2 : Byte
  b3 : Byte
  b4 : Byte
  b5 : Byte
deriving DecidableEq, Repr

/-- The three bytes `RXB[0..2]` (R20). -/
structure RxBuf where
  b0 : Byte
  b1 : Byte
  b2 : Byte
deriving DecidableEq, Repr

/-- The state record `S` of R20: "these registers and no others". -/
structure Apc where
  busy : Bool
  op : BitVec 4
  aReg : RegAddr
  aPin : Byte
  aCmd : Byte
  aDat : Word
  step : Nat
  sync : Sync
  pollCnt : Word
  txb : TxBuf
  txLen : BitVec 3
  rxb : RxBuf
  cs : SelLevel
  res : Word
  resValid : Bool
  status : Status
  done : Bool
deriving DecidableEq, Repr

/-- The answer of `select_line` (R61). -/
inductive SelAnswer where
  | ok
  | err
deriving DecidableEq, Repr

/-- The answer of a write-only `bus_transfer` (R61, R62): the count of bytes transferred, or an error. -/
inductive TxAnswer where
  | ok (n : Nat)
  | err
deriving DecidableEq, Repr

/-- The answer of a read-only `bus_transfer` (R61, R62): the bytes received, whose number is the count (log 7), or an
error. -/
inductive RxAnswer where
  | ok (bytes : List Byte)
  | err
deriving DecidableEq, Repr

/-- The answer of `digital_read` (R61). -/
inductive PinAnswer where
  | ok (l : Level)
  | err
deriving DecidableEq, Repr

/-- The answers the environment will give, the next one first, for each shape of call (R65: free inputs; log 3). A call
that finds its list empty is not answered (R79; log 4). -/
structure Env where
  sel : List SelAnswer
  tx : List TxAnswer
  rx : List RxAnswer
  pin : List PinAnswer
deriving DecidableEq, Repr

/-- A call on the transport interface with the arguments of R61's signatures. -/
inductive Call where
  | selectLine (level : SelLevel)
  | busTransfer (tx : Option (List Byte)) (rx : Option Nat) (length : Nat)
  | digitalRead (pin : Nat)
deriving DecidableEq, Repr

/-- One event of the trace (R10): a transport call with its answer, or a delay. -/
inductive Event where
  /-- `SEL(l)` -/
  | sel (l : SelLevel) (a : SelAnswer)
  /-- `TX[frame]` -/
  | tx (frame : List Byte) (a : TxAnswer)
  /-- `RX(n)` -/
  | rx (n : Nat) (a : RxAnswer)
  /-- `PIN`, with the pin id `digital_read` is given (R64) -/
  | pin (id : Nat) (a : PinAnswer)
  /-- `DELAY` -/
  | delay
deriving DecidableEq, Repr

/-- The whole state. `apc` is the spec's `S`; the other fields are no registers of the APC: the constants `Cfg` (R7, R32;
log 6), the environment's answers (R65; log 3), the requests the host presents (R28; log 2), the reset input (R300;
log 8), and the trace, oldest event first (R10; log 13). -/
structure State where
  apc : Apc
  cfg : Cfg
  env : Env
  inbox : List Presented
  rst : Bool
  trace : List Event
deriving DecidableEq, Repr

/-- Why a step has no successor. -/
inductive Fault where
  /-- The call in hand is never answered. The APC is "stuck, not faulted" (R79, U9): it stays in that micro-step until
  reset, so the state has no successor. Raised by `step` alone. Safe: the model stops where the hardware hangs. -/
  | noAnswer
deriving DecidableEq, Repr

/-- Why the model gives something no meaning. -/
inductive Refusal where
  /-- An instruction whose arm in `exec` has no meaning yet; no arm is so now. Safe: the model stops. -/
  | notModelled (mnemonic : String)
  /-- What was presented is no frame of the wire format, so it "has no meaning in this spec" (R113; log 10). Raised by
  `step`. Safe: the model stops. -/
  | undefinedFrame (e : DecodeError)
  /-- A READ_REG or WRITE_REG frame that no operation of the APC sends (R118, R142; log 11). Raised by the meanings of
  READ_REG and WRITE_REG. Safe: the model stops. -/
  | frameNeverSent
deriving DecidableEq, Repr

/-- The reset values of R38. -/
def Apc.reset : Apc where
  busy := false
  op := 0#4
  aReg := 0#4
  aPin := 0#8
  aCmd := 0#8
  aDat := 0#32
  step := 0
  sync := .polling
  pollCnt := 0#32
  txb := ⟨0#8, 0#8, 0#8, 0#8, 0#8, 0#8⟩
  txLen := 0#3
  rxb := ⟨0#8, 0#8, 0#8⟩
  cs := .deasserted
  res := 0#32
  resValid := false
  status := .ok
  done := false

/-- The machine right after reset: the registers as R38 gives them, reset released, nothing presented, nothing sent, and
no answer scripted (log 3, log 16). -/
def State.reset : State where
  apc := Apc.reset
  cfg := Config.cfg
  env := ⟨[], [], [], []⟩
  inbox := []
  rst := false
  trace := []

end Sys2Proof.Machine
end

