-- ==== Sys2Proof/Machine/Operands.lean ====
section
/-! DEFINITION. Operand forms: the pure functions ENCW, ENCR, MUXENC, DECODE (spec/40_command_encoder.md, 42_channel_mux.md, 45_sample_decoder.md), the fields of the operand latches, the two frame buffers, the legality of a request. -/

namespace Sys2Proof.Machine

/-! ## Frames -/

/-- `base | zext_8(reg)` (R106 a). -/
def opcodeByte (base : Byte) (reg : RegAddr) : Byte := base ||| reg.zeroExtend 8

/-- `count - 1` as an unsigned byte (R106 b). -/
def countByte (count : Nat) : Byte := BitVec.ofNat 8 (count - 1)

/-- `ENCW(register, values)` (R140). -/
def encw (reg : RegAddr) (values : List Byte) : List Byte :=
  opcodeByte 0x50#8 reg :: countByte values.length :: values

/-- `ENCR(register, count)` (R141). -/
def encr (reg : RegAddr) (count : Nat) : List Byte :=
  [opcodeByte 0x10#8 reg, countByte count]

/-- `MUXENC(pin)` (R190, R108). -/
def muxenc (pin : Byte) : Byte := (pin <<< 4) ||| Config.commonNegCode.zeroExtend 8

/-- `pin > 7`, unsigned on the whole operand (R192). -/
def channelOutOfRange (pin : Byte) : Bool := 7 < pin.toNat

/-! ## Results -/

/-- `raw[23:0]` in 32 bits (R107, R250). -/
def rawSample (b0 b1 b2 : Byte) : Word :=
  (b0.zeroExtend 32 <<< 16) ||| (b1.zeroExtend 32 <<< 8) ||| b2.zeroExtend 32

/-- `DECODE(b0, b1, b2)` (R250). -/
def decodeSample (b0 b1 b2 : Byte) : Word :=
  let raw := rawSample b0 b1 b2
  if raw.getLsbD 23 then raw ||| 0xFF000000#32 else raw

/-- `(s >> 4) & 0xF`, the chip id of a status byte (R109). -/
def chipId (s : Byte) : Byte := (s >>> 4) &&& 0x0F#8

/-! ## The operand latches (R20) -/

namespace Apc

/-- `a_dat[7:0]` -/
def v0 (a : Apc) : Byte := a.aDat.extractLsb' 0 8

/-- `a_dat[15:8]` -/
def v1 (a : Apc) : Byte := a.aDat.extractLsb' 8 8

/-- `a_dat[23:16]` -/
def v2 (a : Apc) : Byte := a.aDat.extractLsb' 16 8

/-- `a_dat[31:24]` -/
def v3 (a : Apc) : Byte := a.aDat.extractLsb' 24 8

end Apc

/-- `dat[31:0] = {v3, v2, v1, v0}` (R110). -/
def datOf (v0 v1 v2 v3 : Byte) : Word := v3 ++ (v2 ++ (v1 ++ v0))

/-! ## The frame buffers -/

/-- `TXB[0..L-1] <- frame` (R68): the bytes from `L` on keep their values. -/
def TxBuf.load (t : TxBuf) (frame : List Byte) : TxBuf where
  b0 := frame.getD 0 t.b0
  b1 := frame.getD 1 t.b1
  b2 := frame.getD 2 t.b2
  b3 := frame.getD 3 t.b3
  b4 := frame.getD 4 t.b4
  b5 := frame.getD 5 t.b5

/-- `RXB[0..n-1] <- bytes` (R69): the bytes from `n` on keep their values. -/
def RxBuf.load (r : RxBuf) (bytes : List Byte) : RxBuf where
  b0 := bytes.getD 0 r.b0
  b1 := bytes.getD 1 r.b1
  b2 := bytes.getD 2 r.b2

/-! ## Legal requests -/

/-- One of the twelve operand-less command bytes of R104. -/
def isOperandless (c : Byte) : Bool := (operandlessTable.lookup c).isSome

/-- `legal(req)` (R29): the code is assigned; WREG and RREG name a register; CMD names an operand-less command. -/
def requestLegal (r : Request) : Bool :=
  match r.op.toNat with
  | 1 | 2 => r.fields.reg.toNat < Config.numRegs
  | 3 | 4 | 5 | 6 | 7 => true
  | 8 => isOperandless r.fields.cmd
  | _ => false

end Sys2Proof.Machine
end

