-- ==== Sys2Proof/Machine/Flags.lean ====
section
/-! DEFINITION. The status state. The APC has no arithmetic flags (spec/10_state.md R23): `STATUS`, `done` and `res_valid` are all there is; their codes (R260) and the response record the host reads (R112). -/

namespace Sys2Proof.Machine

/-- The three-bit code of an outcome (R260). -/
def Status.code : Status → BitVec 3
  | .ok => 0#3
  | .transportError => 1#3
  | .timeoutError => 2#3
  | .invalidChannel => 3#3
  | .illegalRequest => 4#3

/-- The outcome a code names; 5, 6 and 7 are reserved (R260). -/
def Status.ofCode (c : BitVec 3) : Option Status :=
  match c.toNat with
  | 0 => some .ok
  | 1 => some .transportError
  | 2 => some .timeoutError
  | 3 => some .invalidChannel
  | 4 => some .illegalRequest
  | _ => none

/-- The host response of R112. -/
structure Response where
  rspValid : Bool
  rspStatus : BitVec 3
  rspData : Word
  rspDataValid : Bool
  reqReady : Bool
deriving DecidableEq, Repr

/-- (`done`, `STATUS`, `RES`, `res_valid`, not `busy`), readable at any time (R112). -/
def Apc.response (a : Apc) : Response where
  rspValid := a.done
  rspStatus := a.status.code
  rspData := a.res
  rspDataValid := a.resValid
  reqReady := !a.busy

end Sys2Proof.Machine
end

