-- ==== Sys2Proof/Machine/Ops.lean ====
section
/-! DEFINITION. The named operations over the registers and the transport port: acceptance, abort (the APC's exception), reset, and the effect of every micro-op (spec/10_state.md R30, R31; 20_memory.md R67 to R71; 41_readiness_sync.md R171 to R175; 60_exceptions.md R267). -/

namespace Sys2Proof.Machine

/-! ## Register updates -/

namespace Apc

/-- `step <- step + 1` -/
def advance (a : Apc) : Apc := { a with step := a.step + 1 }

/-- R171: `sync <- Polling; poll_cnt <- 0`. -/
def enterWait (a : Apc) : Apc := { a with sync := .polling, pollCnt := 0#32 }

/-- R172: `poll_cnt <- poll_cnt + 1`. -/
def countRead (a : Apc) : Apc := { a with pollCnt := a.pollCnt + 1#32 }

/-- R173: `sync <- Settled`. -/
def settle (a : Apc) : Apc := { a with sync := .settled }

/-- R67: `cs <- l`. -/
def setCs (a : Apc) (l : SelLevel) : Apc := { a with cs := l }

/-- R68: `TXB[0..L-1] <- frame; tx_len <- L`. -/
def loadTx (a : Apc) (frame : List Byte) : Apc :=
  { a with txb := a.txb.load frame, txLen := BitVec.ofNat 3 frame.length }

/-- R69: `RXB[0..n-1] <- bytes`. -/
def loadRx (a : Apc) (bytes : List Byte) : Apc := { a with rxb := a.rxb.load bytes }

/-- R71: `RES <- v; res_valid <- 1`. -/
def setRes (a : Apc) (v : Word) : Apc := { a with res := v, resValid := true }

/-- R31: `STATUS <- OK; done <- 1; busy <- 0`. -/
def finish (a : Apc) : Apc := { a with status := .ok, done := true, busy := false }

/-- R267: `STATUS <- E; done <- 1; busy <- 0`, and nothing else. -/
def abort (a : Apc) (e : Status) : Apc := { a with status := e, done := true, busy := false }

/-- R30, first two lines: `done` and `res_valid` cleared, the request latched. -/
def latch (a : Apc) (r : Request) : Apc :=
  { a with
    done := false, resValid := false
    op := r.op, aReg := r.fields.reg, aPin := r.fields.pin, aCmd := r.fields.cmd, aDat := r.fields.dat }

/-- R30: `busy <- 1; step <- 0`. -/
def start (a : Apc) : Apc := { a with busy := true, step := 0 }

/-- R30: `STATUS <- IllegalRequest; done <- 1`. -/
def refuse (a : Apc) : Apc := { a with status := .illegalRequest, done := true }

/-- The request held in the latches. -/
def latched (a : Apc) : Request := ⟨a.op, ⟨a.aReg, a.aPin, a.aCmd, a.aDat⟩⟩

end Apc

namespace State

/-- Replace the registers. -/
def mapApc (s : State) (f : Apc → Apc) : State := { s with apc := f s.apc }

/-- Append an event to the trace (R10). -/
def record (s : State) (e : Event) : State := { s with trace := s.trace ++ [e] }

/-- The environment after answers were taken. -/
def withEnv (s : State) (e : Env) : State := { s with env := e }

/-- TAKING AN EXCEPTION: `raise E` (R267). `step` keeps the index of the failing micro-op, `cs`, `RES`, `res_valid`, `sync`
and the buffers are untouched, no call is made. There is nothing to return to (R268): the next request is accepted as
after any operation. -/
def raise (s : State) (e : Status) : State := s.mapApc (·.abort e)

/-- Reset (R300, R301): every register of R20 at its reset value, the parameters as they were, no transport call. What the
outside holds (its answers, the requests it presents, the reset line) is not the APC's to change. -/
def applyReset (s : State) : State := { s with apc := Apc.reset }

end State

/-! ## Acceptance (R30) -/

/-- R30, in one micro-step, for an APC that is not busy. -/
def acceptApc (r : Request) (a : Apc) : Apc :=
  if requestLegal r then (a.latch r).start else (a.latch r).refuse

/-- R28 and R30: a request is accepted only when `busy` = 0; presented while `busy` = 1 it has no effect. -/
def accept (r : Request) (s : State) : State :=
  if s.apc.busy then s else s.mapApc (acceptApc r)

/-! ## Micro-ops. Each answers the next state, or `none` where its transport call is not answered (R79) -/

/-- `SEL_A` and `SEL_D` (R67). -/
def selectLine (l : SelLevel) (s : State) : Option State :=
  match s.env.sel with
  | [] => none
  | a :: rest =>
    let t := (s.withEnv { s.env with sel := rest }).record (.sel l a)
    match a with
    | .ok => some (t.mapApc fun r => (r.setCs l).advance)
    | .err => some (t.raise .transportError)

/-- `TX(frame)` (R68): the buffer is loaded before the call; a count other than the length is an error (R78). -/
def transmit (frame : List Byte) (s : State) : Option State :=
  match s.env.tx with
  | [] => none
  | a :: rest =>
    let t := ((s.withEnv { s.env with tx := rest }).record (.tx frame a)).mapApc (·.loadTx frame)
    match a with
    | .ok n =>
      if n = frame.length then some (t.mapApc Apc.advance)
      else match s.cfg.onShortTransfer with
        | .error => some (t.raise .transportError)
    | .err => some (t.raise .transportError)

/-- `RX(n)` (R69): the buffer is written only when the count is the length asked (R78). -/
def receive (n : Nat) (s : State) : Option State :=
  match s.env.rx with
  | [] => none
  | a :: rest =>
    let t := (s.withEnv { s.env with rx := rest }).record (.rx n a)
    match a with
    | .ok bytes =>
      if bytes.length = n then some (t.mapApc fun r => (r.loadRx bytes).advance)
      else match s.cfg.onShortTransfer with
        | .error => some (t.raise .transportError)
    | .err => some (t.raise .transportError)

/-- `DELAY` (R70). -/
def settleDelay (s : State) : State := (s.record .delay).mapApc Apc.advance

/-- `WENTER` (R171). -/
def enterWait (s : State) : State := s.mapApc fun r => r.enterWait.advance

/-- The wait ends settled (R173, R175). -/
def settleWait (s : State) : State := s.mapApc fun r => r.settle.advance

/-- The bound is exhausted (R174): no read is made. -/
def pollTimedOut (tp : TimeoutPolicy) (s : State) : State :=
  match tp with
  | .propagate => s.raise .timeoutError
  | .suppress => s.mapApc Apc.advance

/-- What one read of the readiness line does (R172, R173, R175), `s` being the state after the read was counted. -/
def pollAnswered (a : PinAnswer) (s : State) : State :=
  match a with
  | .ok l => if l = s.cfg.readyLevel then settleWait s else s
  | .err =>
    match s.cfg.onPinReadError with
    | .propagateError => s.raise .transportError
    | .treatAsReady => settleWait s

/-- `WPOLL(tp)` (R172): one read of the readiness line, or the timeout when `POLL_BOUND` reads were made. -/
def poll (tp : TimeoutPolicy) (s : State) : Option State :=
  if s.apc.pollCnt < s.cfg.pollBound then
    match s.env.pin with
    | [] => none
    | a :: rest =>
      some (pollAnswered a (((s.withEnv { s.env with pin := rest }).record (.pin s.cfg.drdyPinId a)).mapApc Apc.countRead))
  else some (pollTimedOut tp s)

/-- Which result `SETRES` writes (R71): RREG's byte, RDID's id, ACQ's sample. -/
inductive ResultKind where
  | registerByte
  | chipId
  | sample
deriving DecidableEq, Repr

/-- R71's table. -/
def resultOf (k : ResultKind) (r : RxBuf) : Word :=
  match k with
  | .registerByte => r.b0.zeroExtend 32
  | .chipId => (chipId r.b0).zeroExtend 32
  | .sample => decodeSample r.b0 r.b1 r.b2

/-- `SETRES(kind)` (R71). -/
def setResult (k : ResultKind) (s : State) : State :=
  s.mapApc fun r => (r.setRes (resultOf k r.rxb)).advance

/-- `END` (R31). `step` keeps the index of `END` (95_test_vectors.md A1). -/
def finishOp (s : State) : State := s.mapApc Apc.finish

/-! ## The outside world (R12, R28, R65, R300): what a host or an environment may do between two steps -/

namespace State

/-- The host presents a request after those it presents already (R28, R116; log 2). -/
def present (s : State) (p : Presented) : State := { s with inbox := s.inbox ++ [p] }

/-- The environment will answer more calls (R65; log 3). -/
def deliver (s : State) (e : Env) : State :=
  s.withEnv {
    sel := s.env.sel ++ e.sel, tx := s.env.tx ++ e.tx, rx := s.env.rx ++ e.rx, pin := s.env.pin ++ e.pin }

/-- The reset input is driven (R300; log 8). -/
def driveReset (s : State) (level : Bool) : State := { s with rst := level }

end State

end Sys2Proof.Machine
end

