-- ==== Sys2Proof/Machine/Sequencer.lean ====
section
/-! DEFINITION. The sequencer: the micro-program of every host operation (spec/40_command_encoder.md to 44_register_access.md), one micro-step (10_state.md R22), and an operation run to its end. -/

namespace Sys2Proof.Machine

/-- The micro-ops of R22. -/
inductive MicroOp where
  | wenter
  | wpoll (tp : TimeoutPolicy)
  | selA
  | selD
  | tx (frame : List Byte)
  | rx (n : Nat)
  | delay
  | setres (k : ResultKind)
  | finish
deriving DecidableEq, Repr

/-! ## Micro-programs, each the table of its rule -/

/-- R220. -/
def progWreg (c : Cfg) (a : Apc) : List MicroOp :=
  [.wenter, .wpoll c.onWriteWaitTimeout, .selA, .tx (encw a.aReg [a.v0]), .selD, .finish]

/-- R221. -/
def progRreg (a : Apc) : List MicroOp :=
  [.selA, .tx (encr a.aReg 1), .rx 1, .selD, .setres .registerByte, .finish]

/-- R222. -/
def progRdid : List MicroOp :=
  [.wenter, .wpoll .propagate, .selA, .tx (encr 0#4 1), .rx 1, .selD, .setres .chipId, .finish]

/-- R178. -/
def progWaitrdy : List MicroOp := [.wenter, .wpoll .propagate, .finish]

/-- R191 for a channel 0 to 7. -/
def progSelchValid (c : Cfg) (a : Apc) : List MicroOp :=
  [.wenter, .wpoll c.onWriteWaitTimeout, .selA, .tx (encw 1#4 [muxenc a.aPin]), .selD, .finish]

/-- R192 for a channel above 7, under the named policy of R193. -/
def progSelchInvalid (c : Cfg) : List MicroOp :=
  match c.invalidChannelPolicy with
  | .silentNoOp => [.finish]

/-- R191, R192. -/
def progSelch (c : Cfg) (a : Apc) : List MicroOp :=
  if channelOutOfRange a.aPin then progSelchInvalid c else progSelchValid c a

/-- R201 for a channel 0 to 7. -/
def progAcqValid (c : Cfg) (a : Apc) : List MicroOp :=
  [.wenter, .wpoll c.onWriteWaitTimeout,
   .selA, .tx (encw 1#4 [muxenc a.aPin]), .selD,
   .selA, .tx [0xFC#8], .selD,
   .selA, .tx [0x00#8], .selD, .delay,
   .selA, .tx [0x01#8], .rx 3, .selD,
   .setres .sample, .finish]

/-- R209 for a channel above 7, under the named policy of R193: step 1 is a no-op, steps 2 to 8 run. -/
def progAcqInvalid (c : Cfg) : List MicroOp :=
  match c.invalidChannelPolicy with
  | .silentNoOp =>
    [.selA, .tx [0xFC#8], .selD,
     .selA, .tx [0x00#8], .selD, .delay,
     .selA, .tx [0x01#8], .rx 3, .selD,
     .setres .sample, .finish]

/-- R201, R209. -/
def progAcq (c : Cfg) (a : Apc) : List MicroOp :=
  if channelOutOfRange a.aPin then progAcqInvalid c else progAcqValid c a

/-- R223. -/
def progConfig (c : Cfg) (a : Apc) : List MicroOp :=
  [.wenter, .wpoll c.onWriteWaitTimeout,
   .selA, .tx (encw 0#4 [a.v0, a.v1, a.v2, a.v3]), .selD, .finish]

/-- R157. -/
def progCmd (a : Apc) : List MicroOp := [.selA, .tx [a.aCmd], .selD, .finish]

/-- The micro-program of operation `op` (R22, R111); an unassigned code has none. -/
def programOf (c : Cfg) (a : Apc) : List MicroOp :=
  match a.op.toNat with
  | 1 => progWreg c a
  | 2 => progRreg a
  | 3 => progRdid
  | 4 => progWaitrdy
  | 5 => progSelch c a
  | 6 => progAcq c a
  | 7 => progConfig c a
  | 8 => progCmd a
  | _ => []

/-! ## One micro-step -/

/-- The effect of a micro-op; `none` where its call is not answered. -/
def runMicroOp (m : MicroOp) (s : State) : Option State :=
  match m with
  | .wenter => some (enterWait s)
  | .wpoll tp => poll tp s
  | .selA => selectLine .asserted s
  | .selD => selectLine .deasserted s
  | .tx frame => transmit frame s
  | .rx n => receive n s
  | .delay => some (settleDelay s)
  | .setres k => some (setResult k s)
  | .finish => some (finishOp s)

/-- The micro-op `step` points at (R22). -/
def currentOp (s : State) : Option MicroOp := (programOf s.cfg s.apc)[s.apc.step]?

/-- One micro-step of the running operation (R6, R22); `none` when the APC is idle or its call is not answered. -/
def microStep (s : State) : Option State :=
  if s.apc.busy then (currentOp s).bind (runMicroOp · s) else none

/-- At most `fuel` micro-steps, as long as one can be taken. -/
def runMicro : Nat → State → State
  | 0, s => s
  | fuel + 1, s =>
    match microStep s with
    | none => s
    | some t => runMicro fuel t

/-- Enough micro-steps for any operation: no micro-program is longer than 18 (R201), and every micro-step that does not
advance `step` takes an answer of the readiness line (R172). -/
def opFuel (s : State) : Nat := 18 + s.env.pin.length

/-- The running operation, as far as the environment's answers carry it: to its end, to its abort, or to the call that is
not answered. -/
def runOp (s : State) : State := runMicro (opFuel s) s

/-- A host operation: acceptance, then its micro-program. A request presented while `busy` = 1 has no effect (R28). -/
def runRequest (r : Request) (s : State) : State :=
  if s.apc.busy then s else runOp (accept r s)

end Sys2Proof.Machine
end

