-- ==== Sys2Proof/Machine/Acquisition.lean ====
section
/-! DEFINITION. ACQ, the acquisition of one sample (spec/43_acquisition.md R200 to R209). -/

namespace Sys2Proof.Machine

/-- `ACQ pin` (R200). -/
def execAcq (f : Fields) (s : State) : Host.Outcome State Fault Refusal := .next (runRequest ⟨6#4, f⟩ s)

end Sys2Proof.Machine
end

