-- ==== Sys2Proof/Machine/Channel.lean ====
section
/-! DEFINITION. SELCH, channel selection (spec/42_channel_mux.md R191, R192). -/

namespace Sys2Proof.Machine

/-- `SELCH pin` (R191, R192). -/
def execSelch (f : Fields) (s : State) : Host.Outcome State Fault Refusal := .next (runRequest ⟨5#4, f⟩ s)

end Sys2Proof.Machine
end

