-- ==== Sys2Proof/Machine/Command.lean ====
section
/-! DEFINITION. CMD and the twelve operand-less wire commands (spec/40_command_encoder.md R143 to R146, R149 to R157). A wire command is the host operation CMD with its byte (log 1). -/

namespace Sys2Proof.Machine

/-- `CMD c` (R157). -/
def execCmd (f : Fields) (s : State) : Host.Outcome State Fault Refusal := .next (runRequest ⟨8#4, f⟩ s)

/-- The request `CMD c` with every unused field zero. -/
def cmdRequest (c : Byte) : Request := ⟨8#4, ⟨0#4, 0#8, c, 0#32⟩⟩

/-- WAKEUP, 0x00 (R143): no delay after it (R157). -/
def execWakeup (s : State) : Host.Outcome State Fault Refusal := .next (runRequest (cmdRequest 0x00#8) s)

/-- READ_DATA, 0x01 (R144): in a bracket of its own, nothing is read back. -/
def execReadData (s : State) : Host.Outcome State Fault Refusal := .next (runRequest (cmdRequest 0x01#8) s)

/-- READ_DATA_CONTINUOUS, 0x03 (R145). -/
def execReadDataContinuous (s : State) : Host.Outcome State Fault Refusal := .next (runRequest (cmdRequest 0x03#8) s)

/-- STOP_CONTINUOUS, 0x0F (R146). -/
def execStopContinuous (s : State) : Host.Outcome State Fault Refusal := .next (runRequest (cmdRequest 0x0F#8) s)

/-- SELF_CAL, 0xF0 (R149). -/
def execSelfCal (s : State) : Host.Outcome State Fault Refusal := .next (runRequest (cmdRequest 0xF0#8) s)

/-- SELF_OFFSET_CAL, 0xF1 (R150). -/
def execSelfOffsetCal (s : State) : Host.Outcome State Fault Refusal := .next (runRequest (cmdRequest 0xF1#8) s)

/-- SELF_GAIN_CAL, 0xF2 (R151). -/
def execSelfGainCal (s : State) : Host.Outcome State Fault Refusal := .next (runRequest (cmdRequest 0xF2#8) s)

/-- SYSTEM_OFFSET_CAL, 0xF3 (R152). -/
def execSystemOffsetCal (s : State) : Host.Outcome State Fault Refusal := .next (runRequest (cmdRequest 0xF3#8) s)

/-- SYSTEM_GAIN_CAL, 0xF4 (R153). -/
def execSystemGainCal (s : State) : Host.Outcome State Fault Refusal := .next (runRequest (cmdRequest 0xF4#8) s)

/-- SYNC, 0xFC (R154). -/
def execSync (s : State) : Host.Outcome State Fault Refusal := .next (runRequest (cmdRequest 0xFC#8) s)

/-- STANDBY, 0xFD (R155). -/
def execStandby (s : State) : Host.Outcome State Fault Refusal := .next (runRequest (cmdRequest 0xFD#8) s)

/-- RESET, 0xFE (R156): resets the chip, not the APC. -/
def execReset (s : State) : Host.Outcome State Fault Refusal := .next (runRequest (cmdRequest 0xFE#8) s)

end Sys2Proof.Machine
end

