-- ==== Sys2Proof/Machine/Readiness.lean ====
section
/-! DEFINITION. WAITRDY, the explicit wait (spec/41_readiness_sync.md R178). -/

namespace Sys2Proof.Machine

/-- `WAITRDY` (R178). -/
def execWaitrdy (f : Fields) (s : State) : Host.Outcome State Fault Refusal := .next (runRequest ⟨4#4, f⟩ s)

end Sys2Proof.Machine
end

