-- ==== Sys2Proof/Machine/Register.lean ====
section
/-! DEFINITION. WREG, RREG, RDID, CONFIG (spec/44_register_access.md R220 to R223) and the two register-targeted wire commands READ_REG and WRITE_REG (40_command_encoder.md R147, R148). -/

namespace Sys2Proof.Machine

/-- `WREG reg, value` (R220). -/
def execWreg (f : Fields) (s : State) : Host.Outcome State Fault Refusal := .next (runRequest ⟨1#4, f⟩ s)

/-- `RREG reg` (R221). -/
def execRreg (f : Fields) (s : State) : Host.Outcome State Fault Refusal := .next (runRequest ⟨2#4, f⟩ s)

/-- `RDID` (R222). -/
def execRdid (f : Fields) (s : State) : Host.Outcome State Fault Refusal := .next (runRequest ⟨3#4, f⟩ s)

/-- `CONFIG v0, v1, v2, v3` (R223). -/
def execConfig (f : Fields) (s : State) : Host.Outcome State Fault Refusal := .next (runRequest ⟨7#4, f⟩ s)

/-- The request `RREG reg` with every unused field zero. -/
def rregRequest (reg : RegAddr) : Request := ⟨2#4, ⟨reg, 0#8, 0#8, 0#32⟩⟩

/-- The request `WREG reg, value` with every unused field zero. -/
def wregRequest (reg : RegAddr) (v : Byte) : Request := ⟨1#4, ⟨reg, 0#8, 0#8, datOf v 0#8 0#8 0#8⟩⟩

/-- The request `CONFIG v0, v1, v2, v3` with every unused field zero. -/
def configRequest (v0 v1 v2 v3 : Byte) : Request := ⟨7#4, ⟨0#4, 0#8, 0#8, datOf v0 v1 v2 v3⟩⟩

/-- READ_REG, `[0x10|reg, count-1]` (R147): sent by RREG, always with count 1 (log 1, log 11). -/
def execReadReg (reg : RegAddr) (countM1 : Byte) (s : State) : Host.Outcome State Fault Refusal :=
  if countM1 = 0#8 then .next (runRequest (rregRequest reg) s) else .refused .frameNeverSent

/-- WRITE_REG, `[0x50|reg, n-1, values...]` (R148): one byte is sent by WREG, four bytes from register 0 by CONFIG; the APC
sends no other shape (R118, R142; log 1, log 11). -/
def execWriteReg (reg : RegAddr) (values : List Byte) (s : State) : Host.Outcome State Fault Refusal :=
  match values with
  | [v] => .next (runRequest (wregRequest reg v) s)
  | [v0, v1, v2, v3] =>
    if reg = 0#4 then .next (runRequest (configRequest v0 v1 v2 v3) s) else .refused .frameNeverSent
  | _ => .refused .frameNeverSent

end Sys2Proof.Machine
end

