-- ==== Sys2Proof/Machine/Dispatch.lean ====
section
/-! DEFINITION. One arm per constructor of Instr. -/

namespace Sys2Proof.Machine

def exec (i : Instr) (s : State) : Host.Outcome State Fault Refusal :=
  match i with
  -- the wire commands (30_encoding.md R104)
  | .wakeup => Sys2Proof.Machine.execWakeup s
  | .readData => Sys2Proof.Machine.execReadData s
  | .readDataContinuous => Sys2Proof.Machine.execReadDataContinuous s
  | .stopContinuous => Sys2Proof.Machine.execStopContinuous s
  | .readReg reg countM1 => Sys2Proof.Machine.execReadReg reg countM1 s
  | .writeReg reg values => Sys2Proof.Machine.execWriteReg reg values s
  | .selfCal => Sys2Proof.Machine.execSelfCal s
  | .selfOffsetCal => Sys2Proof.Machine.execSelfOffsetCal s
  | .selfGainCal => Sys2Proof.Machine.execSelfGainCal s
  | .systemOffsetCal => Sys2Proof.Machine.execSystemOffsetCal s
  | .systemGainCal => Sys2Proof.Machine.execSystemGainCal s
  | .sync => Sys2Proof.Machine.execSync s
  | .standby => Sys2Proof.Machine.execStandby s
  | .reset => Sys2Proof.Machine.execReset s
  -- the host operations (30_encoding.md R111)
  | .wreg f => Sys2Proof.Machine.execWreg f s
  | .rreg f => Sys2Proof.Machine.execRreg f s
  | .rdid f => Sys2Proof.Machine.execRdid f s
  | .waitrdy f => Sys2Proof.Machine.execWaitrdy f s
  | .selch f => Sys2Proof.Machine.execSelch f s
  | .acq f => Sys2Proof.Machine.execAcq f s
  | .config f => Sys2Proof.Machine.execConfig f s
  | .cmd f => Sys2Proof.Machine.execCmd f s

end Sys2Proof.Machine
end

