-- ==== Sys2Proof/Machine/Fetch.lean ====
section
/-! DEFINITION. What the step calls around `exec`: taking the request that is presented (spec/10_state.md R28, R30), going on with an operation whose call had not been answered (20_memory.md R79), what a request with no assigned code does (30_encoding.md R114). -/

namespace Sys2Proof.Machine

/-- The operation in flight goes on; with its call unanswered the state has no successor (R79). -/
def resume (s : State) : Host.Outcome State Fault Refusal :=
  match microStep s with
  | none => .fault .noAnswer
  | some t => .next (runOp t)

/-- A presented word or frame that is no row of the opcode table. A host request with an unassigned code is accepted and
ends at once with IllegalRequest (R30, R114, R264); a byte sequence that is no wire frame has no meaning (R113). -/
def undecoded (p : Presented) (e : DecodeError) (s : State) : Host.Outcome State Fault Refusal :=
  match p with
  | .request w => .next (accept (unpackRequest w) s)
  | .frame _ => .refused (.undefinedFrame e)

/-- What an idle APC has to run next: the instruction that is presented first, and the state in which it is no longer
presented. -/
def takePresented (p : Presented) (rest : List Presented) (s : State) : Except DecodeError Instr × State :=
  (decode p, { s with inbox := rest })

end Sys2Proof.Machine
end

