-- ==== Sys2Proof/Machine/Step.lean ====
section
/-! DEFINITION. One step: reset, or the operation in flight goes on, or the request presented first is accepted and run, or the idle APC waits for one (spec/10_state.md R28, R30; 70_reset_and_hazards.md R300). -/

namespace Sys2Proof.Machine

/-- One step of the APC (log 5). The reset input wins; a busy APC accepts nothing (R28); an idle APC with no request waits
(R300; log 17). -/
def step (s : State) : Host.Outcome State Fault Refusal :=
  if s.rst then .next s.applyReset
  else if s.apc.busy then resume s
  else
    match s.inbox with
    | [] => .next s
    | p :: rest =>
      match takePresented p rest s with
      | (.ok i, t) => exec i t
      | (.error e, t) => undecoded p e t

/-- `s` with a table word presented first, the APC idle and the reset input inactive, so that the very next step runs it
(log 16). -/
def State.withFetchWord (s : State) (nbits w : Nat) : State :=
  { s with
    apc := { s.apc with busy := false }
    rst := false
    inbox := tablePresented nbits w :: s.inbox }

end Sys2Proof.Machine
end

