-- ==== Sys2Proof/WellFormed.lean ====
section
/-! DEFINITION. Which instructions are well formed: the request is legal (10_state.md R29), a register address names a register (R33, R105), a wire frame is one the APC sends (R118). `encodable` is the wider domain on which a term has a word at all (R102, R103). -/

namespace Sys2Proof

/-- The twelve operand-less command bytes (R104, R157). -/
def operandlessBytes : List Byte :=
  [0x00#8, 0x01#8, 0x03#8, 0x0F#8, 0xF0#8, 0xF1#8, 0xF2#8, 0xF3#8, 0xF4#8, 0xFC#8, 0xFD#8, 0xFE#8]

/-- A register address names one of the 11 registers (R33, R80). -/
def regInRange (r : RegAddr) : Bool := r.toNat ≤ 10

/-- R29 for the host operations; R118 for the wire frames (READ_REG always with count 1; WRITE_REG with one byte, or
with four bytes from register 0). -/
def Instr.wellFormed : Instr → Bool
  | .wreg f => regInRange f.reg
  | .rreg f => regInRange f.reg
  | .cmd f => operandlessBytes.contains f.cmd
  | .rdid _ | .waitrdy _ | .selch _ | .acq _ | .config _ => true
  | .readReg r c => regInRange r && c == 0#8
  | .writeReg r vs => regInRange r && (vs.length == 1 || (vs.length == 4 && r == 0#4))
  | .wakeup | .readData | .readDataContinuous | .stopContinuous => true
  | .selfCal | .selfOffsetCal | .selfGainCal | .systemOffsetCal | .systemGainCal => true
  | .sync | .standby | .reset => true

/-- The instruction has a word: only a WRITE_REG payload can be too short or too long (R103: n ≥ 1, one count byte). -/
def Instr.encodable : Instr → Bool
  | .writeReg _ vs => 1 ≤ vs.length && vs.length ≤ 256
  | _ => true

end Sys2Proof
end

