-- ==== Sys2Proof/Safety.lean ====
section
/-! DEFINITION. What counts as a safe run: the invariant of the registers (spec/10_state.md R22, R24, R25, R27; 45_sample_decoder.md R253; 60_exceptions.md R263), the bracket rule on traces (20_memory.md R66), and the words claims are written in (00_scope.md R10). -/

namespace Sys2Proof.Machine

/-! ## What a prefix of a micro-program has done -/

/-- The level the last select of a list of micro-ops asked for. -/
def lastLevel (ops : List MicroOp) : Option SelLevel :=
  ops.foldl (fun l m => match m with
    | .selA => some .asserted
    | .selD => some .deasserted
    | _ => l) none

/-- The list has written `RES` (R27). -/
def writesResult (ops : List MicroOp) : Bool :=
  ops.any fun m => match m with
    | .setres _ => true
    | _ => false

/-- The micro-ops of the running operation already done (R22). -/
def opsDone (s : State) : List MicroOp := (programOf s.cfg s.apc).take s.apc.step

/-- The invariant of the APC's registers. -/
structure Inv (s : State) : Prop where
  /-- R22: while busy, `step` points at a micro-op of the running operation. -/
  inProgram : s.apc.busy = true → s.apc.step < (programOf s.cfg s.apc).length
  /-- R29, R30: only a legal request runs. -/
  legal : s.apc.busy = true → requestLegal s.apc.latched = true
  /-- R20 `done`: 1 from the end of an operation until the next acceptance. -/
  notDone : s.apc.busy = true → s.apc.done = false
  /-- R253: `poll_cnt` never passes `POLL_BOUND`. -/
  pollBounded : s.apc.pollCnt ≤ s.cfg.pollBound
  /-- R263: code 3 is never produced. -/
  noInvalidChannel : s.apc.status ≠ .invalidChannel
  /-- R253: `step` ≤ 17. -/
  stepBounded : s.apc.step ≤ 17
  /-- R68: a frame has at most six bytes. -/
  txLenBounded : s.apc.txLen ≤ 6#3
  /-- R25: while busy, `cs` is the level the operation's last select asked for. -/
  csFollows : s.apc.busy = true → ∀ l, lastLevel (opsDone s) = some l → s.apc.cs = l
  /-- R25, as far as the micro-programs bear it out (log 14): an operation that ended OK left `cs` where its last select put
  it. -/
  csReleased : s.apc.busy = false → s.apc.done = true → s.apc.status = .ok →
    ∀ l, lastLevel (programOf s.cfg s.apc) = some l → s.apc.cs = l
  /-- R27: while busy, `res_valid` says whether this operation has written `RES`. -/
  resultFollows : s.apc.busy = true → s.apc.resValid = writesResult (opsDone s)
  /-- R27: an operation that ended OK has a result exactly when its micro-program writes one. -/
  resultComplete : s.apc.busy = false → s.apc.done = true → s.apc.status = .ok →
    s.apc.resValid = writesResult (programOf s.cfg s.apc)
  /-- R27: an operation that did not end OK has none. -/
  noPartialResult : s.apc.done = true → s.apc.status ≠ .ok → s.apc.resValid = false

/-! ## Traces (R10) -/

/-- The call an event records, with the arguments of R61's signatures: a write-only or a read-only `bus_transfer`, never a
full-duplex one (R62). -/
def Event.call? : Event → Option Call
  | .sel l _ => some (.selectLine l)
  | .tx frame _ => some (.busTransfer (some frame) none frame.length)
  | .rx n _ => some (.busTransfer none (some n) n)
  | .pin id _ => some (.digitalRead id)
  | .delay => none

/-- The call failed: `Err`, or a count other than the length asked (R78). -/
def Event.failed : Event → Bool
  | .sel _ a => a == .err
  | .tx frame a => a != .ok frame.length
  | .rx n a => match a with
    | .ok bytes => bytes.length != n
    | .err => true
  | .pin _ a => a == .err
  | .delay => false

/-- Where a list of events stands with respect to brackets (R66). -/
inductive Bracket where
  /-- Between two brackets. -/
  | outside
  /-- A select has asserted, nothing was sent yet. -/
  | opened
  /-- One frame was sent. -/
  | sent (frame : List Byte)
  /-- One frame was sent and its reply read. -/
  | answered
deriving DecidableEq, Repr

/-- The replies R66 allows in a frame's bracket: one byte to a read-register frame, three to the READ_DATA op-code. -/
def isReplyTo (frame : List Byte) (n : Nat) : Bool :=
  match frame with
  | [b] => b == 0x01#8 && n == 3
  | [b, c] => isReadRegByte b && c == 0x00#8 && n == 1
  | _ => false

/-- R66, one event: a transfer stands after a select that asserts and before the select that deasserts, no read of the
readiness line and no delay stands there, one bracket holds one frame, or one frame and its reply. A select that answers
`Err` opens and closes nothing. -/
def bracketStep (p : Bracket) (e : Event) : Option Bracket :=
  match p, e with
  | .outside, .sel .asserted a => some (if a = .ok then .opened else .outside)
  | .outside, .pin _ _ => some .outside
  | .outside, .delay => some .outside
  | .opened, .tx frame _ => some (.sent frame)
  | .sent frame, .rx n _ => if isReplyTo frame n then some .answered else none
  | .sent frame, .sel .deasserted a => some (if a = .ok then .outside else .sent frame)
  | .answered, .sel .deasserted a => some (if a = .ok then .outside else .answered)
  | _, _ => none

/-- R66 on a list of events that begins at `p`: where it ends, or `none` where it breaks the rule. -/
def brackets (p : Bracket) (es : List Event) : Option Bracket := es.foldlM bracketStep p

/-- The level of the last select that answered `Ok` (R20 `cs`, R25), `l` where there is none. -/
def shadowAfter (l : SelLevel) (es : List Event) : SelLevel :=
  es.foldl (fun l e => match e with
    | .sel k .ok => k
    | .sel _ .err | .tx _ _ | .rx _ _ | .pin _ _ | .delay => l) l

/-- What keeps R25's invariant going from one operation to the next: an idle APC has `cs` Deasserted, and a busy one has it
where the operation's last select put it, Deasserted before the first (log 14). -/
def Released (s : State) : Prop :=
  s.apc.cs = if s.apc.busy then (lastLevel (opsDone s)).getD .deasserted else .deasserted

/-- The event is a call of `select_line`. -/
def Event.isSelect : Event → Bool
  | .sel _ _ => true
  | .tx _ _ | .rx _ _ | .pin _ _ | .delay => false

/-- The events the run from `s` to `t` appended. -/
def appended (s t : State) : List Event := t.trace.drop s.trace.length

/-- `k` reads of the readiness line that answer not-ready (R10). -/
def notReadyReads (c : Cfg) (k : Nat) : List Event := List.replicate k (.pin c.drdyPinId (.ok c.notReadyLevel))

/-- `PIN->ready` (R10). -/
def readyRead (c : Cfg) : Event := .pin c.drdyPinId (.ok c.readyLevel)

/-- The answers of a line that reads not-ready `k` times and then ready (R176). -/
def readyAfter (c : Cfg) (k : Nat) (rest : List PinAnswer) : List PinAnswer :=
  List.replicate k (.ok c.notReadyLevel) ++ .ok c.readyLevel :: rest

/-- The events of a bracket that carries one frame, every call answered Ok (R66). -/
def okBracket (frame : List Byte) : List Event :=
  [.sel .asserted .ok, .tx frame (.ok frame.length), .sel .deasserted .ok]

/-- The events of a bracket that carries one frame and the read of its reply, every call answered Ok (R66). -/
def okReadBracket (frame : List Byte) (reply : List Byte) : List Event :=
  [.sel .asserted .ok, .tx frame (.ok frame.length), .rx reply.length (.ok reply), .sel .deasserted .ok]

/-- The instructions whose operation writes `RES` (R27): RREG, RDID, ACQ, and READ_REG, which is RREG (log 1). -/
def producesResult : Instr → Bool
  | .rreg _ | .rdid _ | .acq _ | .readReg _ _ => true
  | _ => false

/-- R270, a write of one register: the row of WREG. -/
def writeOutcome (c : Cfg) (legal : Bool) : Status → Bool
  | .ok | .transportError => legal
  | .timeoutError => legal && c.onWriteWaitTimeout == .propagate
  | .invalidChannel => false
  | .illegalRequest => !legal

/-- R270: the row of RREG, and of CMD. -/
def noWaitOutcome (legal : Bool) : Status → Bool
  | .ok | .transportError => legal
  | .timeoutError | .invalidChannel => false
  | .illegalRequest => !legal

/-- R270, the matrix of errors by operation: the codes an operation can end with. -/
def outcomeAllowed (c : Cfg) : Instr → Status → Bool
  | .wreg f, e => writeOutcome c (regInRange f.reg) e
  | .rreg f, e => noWaitOutcome (regInRange f.reg) e
  | .rdid _, e => e == .ok || e == .transportError || e == .timeoutError
  | .waitrdy _, e =>
    e == .ok || e == .timeoutError || (e == .transportError && c.onPinReadError == .propagateError)
  | .selch f, e => if 7 < f.pin.toNat then e == .ok else writeOutcome c true e
  | .acq f, e => if 7 < f.pin.toNat then noWaitOutcome true e else writeOutcome c true e
  | .config _, e => writeOutcome c true e
  | .cmd f, e => noWaitOutcome (operandlessBytes.contains f.cmd) e
  | .readReg r _, e => noWaitOutcome (regInRange r) e
  | .writeReg r _, e => writeOutcome c (regInRange r) e
  | _, e => noWaitOutcome true e

/-- No micro-step can be taken: the APC is idle, or its call is not answered (R79). -/
def quiet (s : State) : Prop := microStep s = none

end Sys2Proof.Machine
end

