-- ==== Sys2Proof/Certificates/Slice0/Obligations.lean ====
section
/-! DEFINITION. The statements for the provers. A state's `env` lists are the environment's answers (spec/20_memory.md R65), so a statement for every state holds for every answer the environment may give. -/

open Sys2Proof Sys2Proof.Machine

/-! ## Encodings -/

/-- Words written out from R104, R110 and R111 (95_test_vectors.md S1, M4, A9, A17, K10, I5) decode to their
instructions. -/
def Obligations.SpecWordsDecode : Prop :=
  decode (.request 0x10000000000005#56) = .ok (.wreg ⟨0#4, 0#8, 0#8, 0x05#32⟩) ∧
  decode (.request 0x23000000000000#56) = .ok (.rreg ⟨3#4, 0#8, 0#8, 0#32⟩) ∧
  decode (.request 0x3FFFFFFFFFFFFF#56) = .ok (.rdid ⟨15#4, 255#8, 255#8, 0xFFFFFFFF#32⟩) ∧
  decode (.request 0x50030000000000#56) = .ok (.selch ⟨0#4, 3#8, 0#8, 0#32⟩) ∧
  decode (.request 0x700000F0000800#56) = .ok (.config ⟨0#4, 0#8, 0#8, 0xF0000800#32⟩) ∧
  decode (.request 0x8000FC00000000#56) = .ok (.cmd ⟨0#4, 0#8, 0xFC#8, 0#32⟩) ∧
  decode (.frame [0xFC#8]) = .ok .sync ∧
  decode (.frame [0x13#8, 0x00#8]) = .ok (.readReg 3#4 0x00#8) ∧
  decode (.frame [0x50#8, 0x00#8, 0x05#8]) = .ok (.writeReg 0#4 [0x05#8])

/-- The packed request word of R110 holds the five fields and nothing else: packing and unpacking are inverse. -/
def Obligations.RequestWordRoundTrip : Prop :=
  (∀ r : Request, unpackRequest (packRequest r) = r) ∧ (∀ w : ReqWord, packRequest (unpackRequest w) = w)

/-- Decoding the encoding of an instruction gives it back, for every instruction that has a word: every host operation with
every value of every field, legal or not, and every wire frame of R101 to R103. -/
def Obligations.DecodeOfEncode : Prop :=
  ∀ i : Instr, i.encodable = true → decode (encode i) = .ok i

/-- A word or frame that decodes is the encoding of what it decodes to: no two words mean one instruction. -/
def Obligations.EncodeOfDecode : Prop :=
  ∀ (p : Presented) (i : Instr), decode p = .ok i → i.encodable = true ∧ encode i = p

/-- R113, R114: a request word is rejected exactly when its code is 0x0 or 0x9 to 0xF; a frame is rejected as no command
exactly when its first byte is none of the twelve operand-less bytes and in neither register-targeted row. -/
def Obligations.OutsideTheTablesRejected : Prop :=
  (∀ w : ReqWord, (∃ e, decode (.request w) = .error e) ↔
    ((unpackRequest w).op.toNat = 0 ∨ 9 ≤ (unpackRequest w).op.toNat)) ∧
  (∀ (b : Byte) (rest : List Byte), decode (.frame (b :: rest)) = .error (.undefinedCommand b) ↔
    (b ∉ operandlessBytes ∧ b.extractLsb' 4 4 ≠ 0x1#4 ∧ b.extractLsb' 4 4 ≠ 0x5#4))

/-- R140: `ENCW(register, values)` is the sequence `[0x50|register, n-1, values...]` of n + 2 bytes. -/
def Obligations.EncwIsWriteFrame : Prop :=
  ∀ (reg : RegAddr) (values : List Byte), reg.toNat ≤ 10 → 1 ≤ values.length → values.length ≤ 256 →
    ∃ b0 b1 : Byte, encw reg values = b0 :: b1 :: values ∧ b0 = 0x50#8 ||| reg.zeroExtend 8 ∧
      b1.toNat = values.length - 1 ∧ (encw reg values).length = values.length + 2

/-- R141: `ENCR(register, count)` is `[0x10|register, count-1]`, always two bytes. -/
def Obligations.EncrIsReadFrame : Prop :=
  ∀ (reg : RegAddr) (count : Nat), reg.toNat ≤ 10 → 1 ≤ count → count ≤ 256 →
    ∃ b0 b1 : Byte, encr reg count = [b0, b1] ∧ b0 = 0x10#8 ||| reg.zeroExtend 8 ∧ b1.toNat = count - 1

/-- R190, R108: for a channel 0 to 7 the multiplexer byte carries the channel in bits [7:4] and the common negative code
0b1000 in bits [3:0]. -/
def Obligations.MuxencPairsCommon : Prop :=
  ∀ pin : Byte, pin.toNat ≤ 7 →
    (muxenc pin).toNat = 16 * pin.toNat + 8 ∧ ((muxenc pin).extractLsb' 4 4).toNat = pin.toNat ∧
      (muxenc pin).extractLsb' 0 4 = 0b1000#4

/-- R251: the round-trip law of the sample decoder, its uniqueness, and the 32-bit pattern. -/
def Obligations.SampleDecodeLaw : Prop :=
  ∀ b0 b1 b2 : Byte,
    let raw : Nat := 65536 * b0.toNat + 256 * b1.toNat + b2.toNat
    let result : Int := (decodeSample b0 b1 b2).toInt
    (raw < 2 ^ 23 → result = raw) ∧ (2 ^ 23 ≤ raw → result = raw - 2 ^ 24) ∧
    (result % 2 ^ 24 = raw ∧ -(2 ^ 23) ≤ result ∧ result ≤ 2 ^ 23 - 1) ∧
    (∀ n : Int, n % 2 ^ 24 = raw → -(2 ^ 23) ≤ n → n ≤ 2 ^ 23 - 1 → n = result) ∧
    ((decodeSample b0 b1 b2).extractLsb' 0 24).toNat = raw ∧
    (decodeSample b0 b1 b2).extractLsb' 24 8 = (if b0.getLsbD 7 then 0xFF#8 else 0x00#8)

/-- R109: the chip id of a status byte is its high nibble, a value 0 to 15. -/
def Obligations.ChipIdIsHighNibble : Prop :=
  ∀ s : Byte, (chipId s).toNat = (s.extractLsb' 4 4).toNat ∧ (chipId s).toNat ≤ 15

/-! ## Requests and the response -/

/-- R29: which requests are legal. -/
def Obligations.LegalRequests : Prop :=
  ∀ r : Request, requestLegal r = true ↔
    ((r.op.toNat = 1 ∨ r.op.toNat = 2) ∧ r.fields.reg.toNat ≤ 10) ∨
    (3 ≤ r.op.toNat ∧ r.op.toNat ≤ 7) ∨
    (r.op.toNat = 8 ∧ r.fields.cmd ∈ operandlessBytes)

/-- R30: acceptance, register by register; everything else is unchanged. -/
def Obligations.AcceptanceLatches : Prop :=
  ∀ (s : State) (r : Request), s.apc.busy = false →
    (requestLegal r = true → accept r s = { s with apc := { s.apc with
      done := false, resValid := false, op := r.op, aReg := r.fields.reg, aPin := r.fields.pin,
      aCmd := r.fields.cmd, aDat := r.fields.dat, busy := true, step := 0 } }) ∧
    (requestLegal r = false → accept r s = { s with apc := { s.apc with
      resValid := false, op := r.op, aReg := r.fields.reg, aPin := r.fields.pin,
      aCmd := r.fields.cmd, aDat := r.fields.dat, status := .illegalRequest, done := true } })

/-- R264: WREG and RREG with `reg` above 10, CMD with a byte that is no operand-less command, and a request whose code is
unassigned end at once with IllegalRequest: no transport call, nothing but the latches, `STATUS`, `done` and `res_valid`
changes. -/
def Obligations.IllegalRequestEndsAtOnce : Prop :=
  (∀ (s : State) (f : Fields), s.apc.busy = false → 10 < f.reg.toNat →
    exec (.wreg f) s = .next { s with apc := { s.apc.latch ⟨1#4, f⟩ with status := .illegalRequest, done := true } } ∧
    exec (.rreg f) s = .next { s with apc := { s.apc.latch ⟨2#4, f⟩ with status := .illegalRequest, done := true } }) ∧
  (∀ (s : State) (f : Fields), s.apc.busy = false → f.cmd ∉ operandlessBytes →
    exec (.cmd f) s = .next { s with apc := { s.apc.latch ⟨8#4, f⟩ with status := .illegalRequest, done := true } }) ∧
  (∀ (s : State) (w : ReqWord) (rest : List Presented), s.rst = false → s.apc.busy = false →
    s.inbox = .request w :: rest → ((unpackRequest w).op.toNat = 0 ∨ 9 ≤ (unpackRequest w).op.toNat) →
    step s = .next { s with
      inbox := rest
      apc := { s.apc.latch (unpackRequest w) with status := .illegalRequest, done := true } })

/-- R28: what is presented while `busy` = 1 is not accepted and has no effect on the operation in flight; it stays
pending (that it is not dropped is the model's choice, log 2). -/
def Obligations.BusyIgnoresRequests : Prop :=
  ∀ (s : State) (ps : List Presented), s.rst = false → s.apc.busy = true →
    (∀ r : Request, accept r s = s) ∧
    ((step s = .fault .noAnswer ∧ step { s with inbox := ps } = .fault .noAnswer) ∨
      ∃ t, step s = .next t ∧ t.inbox = s.inbox ∧ step { s with inbox := ps } = .next { t with inbox := ps })

/-- R112, R260: the response record is (`done`, `STATUS`, `RES`, `res_valid`, not `busy`), and the codes of `STATUS` are
those of the table: 5, 6 and 7 name nothing. -/
def Obligations.ResponseRecord : Prop :=
  (∀ a : Apc, a.response = ⟨a.done, a.status.code, a.res, a.resValid, !a.busy⟩) ∧
  Status.ok.code = 0#3 ∧ Status.transportError.code = 1#3 ∧ Status.timeoutError.code = 2#3 ∧
  Status.invalidChannel.code = 3#3 ∧ Status.illegalRequest.code = 4#3 ∧
  (∀ e : Status, Status.ofCode e.code = some e) ∧ (∀ c : BitVec 3, 5 ≤ c.toNat → Status.ofCode c = none)

/-! ## Steps -/

/-- When what is presented first decodes, an idle step is `exec` of it, in the state in which it is no longer presented. -/
def Obligations.StepRunsPresented : Prop :=
  ∀ (s : State) (p : Presented) (rest : List Presented) (i : Instr),
    s.rst = false → s.apc.busy = false → s.inbox = p :: rest → decode p = .ok i →
    step s = exec i { s with inbox := rest }

/-- R300: an idle APC with no request waits for one (that the waiting step changes nothing is the model's choice,
log 17). -/
def Obligations.StepIdleWaits : Prop :=
  ∀ s : State, s.rst = false → s.apc.busy = false → s.inbox = [] → step s = .next s

/-- R38: reset puts every register at its reset value and leaves the parameters; so are the registers of `State.reset`. -/
def Obligations.ResetRegisters : Prop :=
  (∀ s t : State, s.rst = true → step s = .next t →
    t.apc.busy = false ∧ t.apc.op = 0#4 ∧ t.apc.aReg = 0#4 ∧ t.apc.aPin = 0#8 ∧ t.apc.aCmd = 0#8 ∧
    t.apc.aDat = 0#32 ∧ t.apc.step = 0 ∧ t.apc.sync = .polling ∧ t.apc.pollCnt = 0#32 ∧
    t.apc.txb = ⟨0#8, 0#8, 0#8, 0#8, 0#8, 0#8⟩ ∧ t.apc.txLen = 0#3 ∧ t.apc.rxb = ⟨0#8, 0#8, 0#8⟩ ∧
    t.apc.cs = .deasserted ∧ t.apc.res = 0#32 ∧ t.apc.resValid = false ∧ t.apc.status = .ok ∧ t.apc.done = false ∧
    t.cfg = s.cfg ∧ State.reset.apc = t.apc) ∧
  (∀ s : State, s.rst = true → ∃ t, step s = .next t)

/-- R300, R301: with the reset input active, whatever the APC was doing, every register takes its reset value; the
parameters stay, no call is made, nothing is accepted. -/
def Obligations.ResetInputResets : Prop :=
  ∀ s : State, s.rst = true → step s = .next { s with apc := State.reset.apc }

/-- R79, R316: a call that is not answered leaves the APC in its micro-step with no successor; only reset frees it. -/
def Obligations.UnansweredCallIsStuck : Prop :=
  ∀ (s : State) (m : MicroOp), s.rst = false → s.apc.busy = true → currentOp s = some m →
    (((m = .selA ∨ m = .selD) ∧ s.env.sel = []) ∨ (∃ fr, m = .tx fr ∧ s.env.tx = []) ∨
      (∃ n, m = .rx n ∧ s.env.rx = []) ∨
      (∃ tp, m = .wpoll tp ∧ s.apc.pollCnt < s.cfg.pollBound ∧ s.env.pin = [])) →
    microStep s = none ∧ step s = .fault .noAnswer ∧
      step { s with rst := true } = .next { s with rst := true, apc := State.reset.apc }

/-- R79, R81: the calls block. An operation whose answers come late does exactly what it does when they are there from the
beginning. -/
def Obligations.LateAnswersChangeNothing : Prop :=
  ∀ (i : Instr) (s t u : State) (e : Env), s.rst = false → s.apc.busy = false →
    exec i s = .next t → exec i (s.deliver e) = .next u →
    (t.apc.busy = false → u = t.deliver e) ∧
    (t.apc.busy = true →
      step (t.deliver e) = .next u ∨ (step (t.deliver e) = .fault .noAnswer ∧ u = t.deliver e))

/-- An operation runs until no micro-step can be taken: to END, to its abort, or to a call that is not answered. -/
def Obligations.OperationsRunToTheirEnd : Prop :=
  (∀ (i : Instr) (s t : State), s.apc.busy = false → exec i s = .next t → quiet t) ∧
  (∀ s t : State, s.rst = false → s.apc.busy = true → step s = .next t → quiet t)

/-- R7, R32: no step changes the parameters; nor does one take back an event of the trace. -/
def Obligations.ParametersAreConstant : Prop :=
  ∀ s t : State, step s = .next t → t.cfg = s.cfg ∧ t.rst = s.rst ∧ ∃ es, t.trace = s.trace ++ es

/-! ## Micro-ops -/

/-- R67: SEL_A and SEL_D. -/
def Obligations.SelectMicroOp : Prop :=
  ∀ (s : State) (m : MicroOp) (l : SelLevel) (a : SelAnswer) (rest : List SelAnswer),
    s.apc.busy = true → currentOp s = some m → (m = .selA ∧ l = .asserted ∨ m = .selD ∧ l = .deasserted) →
    s.env.sel = a :: rest →
    (a = .ok → microStep s = some { s with
      apc := { s.apc with cs := l, step := s.apc.step + 1 }
      env := { s.env with sel := rest }, trace := s.trace ++ [.sel l .ok] }) ∧
    (a = .err → microStep s = some { s with
      apc := { s.apc with status := .transportError, done := true, busy := false }
      env := { s.env with sel := rest }, trace := s.trace ++ [.sel l .err] })

/-- R68, R78: TX loads the buffer before the call; only the whole length lets the operation go on. -/
def Obligations.TransmitMicroOp : Prop :=
  ∀ (s : State) (fr : List Byte) (a : TxAnswer) (rest : List TxAnswer),
    s.apc.busy = true → currentOp s = some (.tx fr) → s.env.tx = a :: rest →
    (a = .ok fr.length → microStep s = some { s with
      apc := { s.apc with
        txb := s.apc.txb.load fr, txLen := BitVec.ofNat 3 fr.length, step := s.apc.step + 1 }
      env := { s.env with tx := rest }, trace := s.trace ++ [.tx fr a] }) ∧
    (a ≠ .ok fr.length → microStep s = some { s with
      apc := { s.apc with
        txb := s.apc.txb.load fr, txLen := BitVec.ofNat 3 fr.length,
        status := .transportError, done := true, busy := false }
      env := { s.env with tx := rest }, trace := s.trace ++ [.tx fr a] })

/-- R69, R78: RX writes the buffer only when the whole length came. -/
def Obligations.ReceiveMicroOp : Prop :=
  ∀ (s : State) (n : Nat) (a : RxAnswer) (rest : List RxAnswer),
    s.apc.busy = true → currentOp s = some (.rx n) → s.env.rx = a :: rest →
    (∀ bytes, a = .ok bytes → bytes.length = n → microStep s = some { s with
      apc := { s.apc with rxb := s.apc.rxb.load bytes, step := s.apc.step + 1 }
      env := { s.env with rx := rest }, trace := s.trace ++ [.rx n a] }) ∧
    ((a = .err ∨ ∃ bytes, a = .ok bytes ∧ bytes.length ≠ n) → microStep s = some { s with
      apc := { s.apc with status := .transportError, done := true, busy := false }
      env := { s.env with rx := rest }, trace := s.trace ++ [.rx n a] })

/-- R70, R171, R31: DELAY, WENTER and END cannot fail and make no call. -/
def Obligations.CalllessMicroOps : Prop :=
  ∀ s : State, s.apc.busy = true →
    (currentOp s = some .delay → microStep s = some { s with
      apc := { s.apc with step := s.apc.step + 1 }, trace := s.trace ++ [.delay] }) ∧
    (currentOp s = some .wenter → microStep s = some { s with
      apc := { s.apc with sync := .polling, pollCnt := 0#32, step := s.apc.step + 1 } }) ∧
    (currentOp s = some .finish → microStep s = some { s with
      apc := { s.apc with status := .ok, done := true, busy := false } })

/-- R71: SETRES writes RREG's byte zero-extended, RDID's high nibble, ACQ's decoded sample. -/
def Obligations.SetResultMicroOp : Prop :=
  ∀ (s : State) (k : ResultKind), s.apc.busy = true → currentOp s = some (.setres k) →
    microStep s = some { s with apc := { s.apc with
      res := (match k with
        | .registerByte => s.apc.rxb.b0.zeroExtend 32
        | .chipId => (s.apc.rxb.b0.extractLsb' 4 4).zeroExtend 32
        | .sample => decodeSample s.apc.rxb.b0 s.apc.rxb.b1 s.apc.rxb.b2)
      resValid := true, step := s.apc.step + 1 } }

/-- R172, R173, R175: one read of the readiness line below the bound. -/
def Obligations.PollReadsLine : Prop :=
  ∀ (s : State) (tp : TimeoutPolicy) (a : PinAnswer) (rest : List PinAnswer),
    s.apc.busy = true → currentOp s = some (.wpoll tp) → s.apc.pollCnt < s.cfg.pollBound →
    s.env.pin = a :: rest →
    let read : State := { s with
      apc := { s.apc with pollCnt := s.apc.pollCnt + 1#32 }
      env := { s.env with pin := rest }, trace := s.trace ++ [.pin s.cfg.drdyPinId a] }
    (a = .ok s.cfg.readyLevel → microStep s = some { read with
      apc := { read.apc with sync := .settled, step := s.apc.step + 1 } }) ∧
    (a = .ok s.cfg.notReadyLevel → microStep s = some read) ∧
    (a = .err → s.cfg.onPinReadError = .propagateError → microStep s = some { read with
      apc := { read.apc with status := .transportError, done := true, busy := false } }) ∧
    (a = .err → s.cfg.onPinReadError = .treatAsReady → microStep s = some { read with
      apc := { read.apc with sync := .settled, step := s.apc.step + 1 } })

/-- R174: with `POLL_BOUND` reads made, no further read; the policy decides. -/
def Obligations.PollTimesOut : Prop :=
  ∀ (s : State) (tp : TimeoutPolicy),
    s.apc.busy = true → currentOp s = some (.wpoll tp) → s.apc.pollCnt = s.cfg.pollBound →
    (tp = .propagate → microStep s = some { s with
      apc := { s.apc with status := .timeoutError, done := true, busy := false } }) ∧
    (tp = .suppress → microStep s = some { s with apc := { s.apc with step := s.apc.step + 1 } })

/-- R267: an abort changes `STATUS`, `done` and `busy`, and what its micro-step had already written: the send buffer and
its length of a TX, the count of a poll whose read failed. Nothing else changes, `poll_cnt` of a timeout neither; the only
event an abort can add is the call that failed. -/
def Obligations.AbortChangesOnlyOutcome : Prop :=
  ∀ s t : State, microStep s = some t → t.apc.busy = false → t.apc.status ≠ .ok →
    (t.apc.status = .transportError ∨ t.apc.status = .timeoutError) ∧
    t.apc = { s.apc with
      status := t.apc.status, done := true, busy := false,
      txb := t.apc.txb, txLen := t.apc.txLen, pollCnt := t.apc.pollCnt } ∧
    (∀ fr, currentOp s = some (.tx fr) →
      t.apc.txb = s.apc.txb.load fr ∧ t.apc.txLen = BitVec.ofNat 3 fr.length) ∧
    ((∀ fr, currentOp s ≠ some (.tx fr)) → t.apc.txb = s.apc.txb ∧ t.apc.txLen = s.apc.txLen) ∧
    (∀ tp, currentOp s = some (.wpoll tp) →
      (t.apc.status = .transportError → t.apc.pollCnt = s.apc.pollCnt + 1#32) ∧
      (t.apc.status = .timeoutError → t.apc.pollCnt = s.apc.pollCnt)) ∧
    ((∀ tp, currentOp s ≠ some (.wpoll tp)) → t.apc.pollCnt = s.apc.pollCnt) ∧
    t.cfg = s.cfg ∧ t.inbox = s.inbox ∧ t.rst = s.rst ∧
    (t.trace = s.trace ∨ ∃ e, e.failed = true ∧ t.trace = s.trace ++ [e])

/-! ## Host operations: what each does when its calls are answered -/

/-- R157: `CMD c` sends the one byte in a bracket: no wait, no delay, no result. -/
def Obligations.CmdSendsCommand : Prop :=
  ∀ (s : State) (f : Fields) (sel : List SelAnswer) (tx : List TxAnswer),
    s.apc.busy = false → f.cmd ∈ operandlessBytes →
    s.env.sel = .ok :: .ok :: sel → s.env.tx = .ok 1 :: tx →
    exec (.cmd f) s = .next { s with
      apc := { s.apc.latch ⟨8#4, f⟩ with
        busy := false, step := 3, txb := { s.apc.txb with b0 := f.cmd }, txLen := 1#3, cs := .deasserted,
        status := .ok, done := true }
      env := { s.env with sel := sel, tx := tx }
      trace := s.trace ++ okBracket [f.cmd] }

/-- R143 to R146 and R149 to R156: each of the twelve operand-less wire commands, sent by CMD with its byte (that a wire
command presented by itself is that CMD request with its other fields zero is the model's choice, log 1). -/
def Obligations.WireCommandsSendTheirByte : Prop :=
  ∀ (s : State) (sel : List SelAnswer) (tx : List TxAnswer) (i : Instr) (c : Byte),
    (i, c) ∈ [(Instr.wakeup, 0x00#8), (.readData, 0x01#8), (.readDataContinuous, 0x03#8), (.stopContinuous, 0x0F#8),
      (.selfCal, 0xF0#8), (.selfOffsetCal, 0xF1#8), (.selfGainCal, 0xF2#8), (.systemOffsetCal, 0xF3#8),
      (.systemGainCal, 0xF4#8), (.sync, 0xFC#8), (.standby, 0xFD#8), (.reset, 0xFE#8)] →
    s.apc.busy = false → s.env.sel = .ok :: .ok :: sel → s.env.tx = .ok 1 :: tx →
    exec i s = .next { s with
      apc := { s.apc.latch ⟨8#4, ⟨0#4, 0#8, c, 0#32⟩⟩ with
        busy := false, step := 3, txb := { s.apc.txb with b0 := c }, txLen := 1#3, cs := .deasserted,
        status := .ok, done := true }
      env := { s.env with sel := sel, tx := tx }
      trace := s.trace ++ okBracket [c] }

/-- R178, R176: a line that reads not-ready `k` times and then ready, `k` below the bound, settles WAITRDY after k + 1
reads. -/
def Obligations.WaitrdySettles : Prop :=
  ∀ (s : State) (f : Fields) (k : Nat) (pin : List PinAnswer),
    s.apc.busy = false → s.env.pin = readyAfter s.cfg k pin → k < s.cfg.pollBound.toNat →
    exec (.waitrdy f) s = .next { s with
      apc := { s.apc.latch ⟨4#4, f⟩ with
        busy := false, step := 2, sync := .settled, pollCnt := BitVec.ofNat 32 (k + 1), status := .ok, done := true }
      env := { s.env with pin := pin }
      trace := s.trace ++ (notReadyReads s.cfg k ++ [readyRead s.cfg]) }

/-- R174, R176, R177, R179: when the line never reads ready within the bound, WAITRDY and RDID end with TimeoutError after
exactly `POLL_BOUND` reads, whatever `ON_WRITE_WAIT_TIMEOUT` is; nothing is sent. -/
def Obligations.ExplicitWaitsTimeOut : Prop :=
  ∀ (s : State) (f : Fields) (i : Instr) (o : BitVec 4) (pin : List PinAnswer),
    (i = .waitrdy f ∧ o = 4#4 ∨ i = .rdid f ∧ o = 3#4) → s.apc.busy = false →
    s.env.pin = List.replicate s.cfg.pollBound.toNat (.ok s.cfg.notReadyLevel) ++ pin →
    exec i s = .next { s with
      apc := { s.apc.latch ⟨o, f⟩ with
        busy := false, step := 1, sync := .polling, pollCnt := s.cfg.pollBound, status := .timeoutError, done := true }
      env := { s.env with pin := pin }
      trace := s.trace ++ notReadyReads s.cfg s.cfg.pollBound.toNat }

/-- R175, R177: a read of the line that fails, after `k` not-ready ones below the bound. Under PropagateError every
operation that waits aborts with TransportError, whatever the timeout policy. Under TreatAsReady the wait settles at once:
WAITRDY ends OK, and every operation that waits does exactly what it does when that read answers ready, whatever the
transport answers after it; only the event of the read differs. WRITE_REG frames wait as the WREG or CONFIG they are
(log 1). -/
def Obligations.PinErrorPolicies : Prop :=
  ∀ (s : State) (f : Fields) (k : Nat) (pin : List PinAnswer),
    s.apc.busy = false → k < s.cfg.pollBound.toNat →
    s.env.pin = List.replicate k (.ok s.cfg.notReadyLevel) ++ .err :: pin →
    (s.cfg.onPinReadError = .propagateError → ∀ (i : Instr) (o : BitVec 4) (v v0 v1 v2 v3 : Byte),
      (i = .waitrdy f ∧ o = 4#4 ∨ i = .rdid f ∧ o = 3#4 ∨ i = .config f ∧ o = 7#4 ∨
        i = .wreg f ∧ o = 1#4 ∧ f.reg.toNat ≤ 10 ∨ i = .selch f ∧ o = 5#4 ∧ f.pin.toNat ≤ 7 ∨
        i = .acq f ∧ o = 6#4 ∧ f.pin.toNat ≤ 7 ∨
        i = .writeReg f.reg [v] ∧ o = 1#4 ∧ f.reg.toNat ≤ 10 ∧ f = ⟨f.reg, 0#8, 0#8, v.zeroExtend 32⟩ ∨
        i = .writeReg 0#4 [v0, v1, v2, v3] ∧ o = 7#4 ∧ f = ⟨0#4, 0#8, 0#8, v3 ++ v2 ++ v1 ++ v0⟩) →
      exec i s = .next { s with
        apc := { s.apc.latch ⟨o, f⟩ with
          busy := false, step := 1, sync := .polling, pollCnt := BitVec.ofNat 32 (k + 1),
          status := .transportError, done := true }
        env := { s.env with pin := pin }
        trace := s.trace ++ (notReadyReads s.cfg k ++ [.pin s.cfg.drdyPinId .err]) }) ∧
    (s.cfg.onPinReadError = .treatAsReady →
      exec (.waitrdy f) s = .next { s with
        apc := { s.apc.latch ⟨4#4, f⟩ with
          busy := false, step := 2, sync := .settled, pollCnt := BitVec.ofNat 32 (k + 1), status := .ok, done := true }
        env := { s.env with pin := pin }
        trace := s.trace ++ (notReadyReads s.cfg k ++ [.pin s.cfg.drdyPinId .err]) } ∧
      ∀ (i : Instr) (v v0 v1 v2 v3 : Byte),
        (i = .waitrdy f ∨ i = .rdid f ∨ i = .config f ∨ i = .wreg f ∧ f.reg.toNat ≤ 10 ∨
          i = .selch f ∧ f.pin.toNat ≤ 7 ∨ i = .acq f ∧ f.pin.toNat ≤ 7 ∨
          i = .writeReg f.reg [v] ∧ f.reg.toNat ≤ 10 ∨ i = .writeReg 0#4 [v0, v1, v2, v3]) →
        ∃ (t : State) (es : List Event),
          exec i { s with env := { s.env with pin := readyAfter s.cfg k pin } } = .next t ∧
          t.trace = s.trace ++ (notReadyReads s.cfg k ++ readyRead s.cfg :: es) ∧
          exec i s = .next { t with
            trace := s.trace ++ (notReadyReads s.cfg k ++ .pin s.cfg.drdyPinId .err :: es) })

/-- R220: `WREG reg, value` waits, then sends `[0x50|reg, 0x00, value]` in a bracket. -/
def Obligations.WregWritesRegister : Prop :=
  ∀ (s : State) (f : Fields) (k : Nat) (pin : List PinAnswer) (sel : List SelAnswer) (tx : List TxAnswer),
    s.apc.busy = false → f.reg.toNat ≤ 10 → k < s.cfg.pollBound.toNat →
    s.env.pin = readyAfter s.cfg k pin → s.env.sel = .ok :: .ok :: sel → s.env.tx = .ok 3 :: tx →
    exec (.wreg f) s = .next { s with
      apc := { s.apc.latch ⟨1#4, f⟩ with
        busy := false, step := 5, sync := .settled, pollCnt := BitVec.ofNat 32 (k + 1),
        txb := { s.apc.txb with b0 := 0x50#8 ||| f.reg.zeroExtend 8, b1 := 0x00#8, b2 := f.dat.extractLsb' 0 8 },
        txLen := 3#3, cs := .deasserted, status := .ok, done := true }
      env := { s.env with sel := sel, tx := tx, pin := pin }
      trace := s.trace ++ (notReadyReads s.cfg k ++ [readyRead s.cfg] ++
        okBracket [0x50#8 ||| f.reg.zeroExtend 8, 0x00#8, f.dat.extractLsb' 0 8]) }

/-- R223: `CONFIG v0, v1, v2, v3` waits, then sends `[0x50, 0x03, v0, v1, v2, v3]` in one bracket. -/
def Obligations.ConfigWritesFourRegisters : Prop :=
  ∀ (s : State) (f : Fields) (k : Nat) (v0 v1 v2 v3 : Byte) (pin : List PinAnswer) (sel : List SelAnswer)
    (tx : List TxAnswer),
    s.apc.busy = false → f.dat = v3 ++ v2 ++ v1 ++ v0 → k < s.cfg.pollBound.toNat →
    s.env.pin = readyAfter s.cfg k pin → s.env.sel = .ok :: .ok :: sel → s.env.tx = .ok 6 :: tx →
    exec (.config f) s = .next { s with
      apc := { s.apc.latch ⟨7#4, f⟩ with
        busy := false, step := 5, sync := .settled, pollCnt := BitVec.ofNat 32 (k + 1),
        txb := ⟨0x50#8, 0x03#8, v0, v1, v2, v3⟩, txLen := 6#3, cs := .deasserted, status := .ok, done := true }
      env := { s.env with sel := sel, tx := tx, pin := pin }
      trace := s.trace ++ (notReadyReads s.cfg k ++ [readyRead s.cfg] ++
        okBracket [0x50#8, 0x03#8, v0, v1, v2, v3]) }

/-- R191: `SELCH pin` with a channel 0 to 7 waits, then writes the multiplexer byte to register 1. -/
def Obligations.SelchWritesMultiplexer : Prop :=
  ∀ (s : State) (f : Fields) (k : Nat) (pin : List PinAnswer) (sel : List SelAnswer) (tx : List TxAnswer),
    s.apc.busy = false → f.pin.toNat ≤ 7 → k < s.cfg.pollBound.toNat →
    s.env.pin = readyAfter s.cfg k pin → s.env.sel = .ok :: .ok :: sel → s.env.tx = .ok 3 :: tx →
    exec (.selch f) s = .next { s with
      apc := { s.apc.latch ⟨5#4, f⟩ with
        busy := false, step := 5, sync := .settled, pollCnt := BitVec.ofNat 32 (k + 1),
        txb := { s.apc.txb with b0 := 0x51#8, b1 := 0x00#8, b2 := (f.pin <<< 4) ||| 0x08#8 },
        txLen := 3#3, cs := .deasserted, status := .ok, done := true }
      env := { s.env with sel := sel, tx := tx, pin := pin }
      trace := s.trace ++ (notReadyReads s.cfg k ++ [readyRead s.cfg] ++
        okBracket [0x51#8, 0x00#8, (f.pin <<< 4) ||| 0x08#8]) }

/-- R192: `SELCH pin` with a channel above 7 is a no-op that ends OK: no wait, no read of the line, no frame, whatever the
environment would answer. -/
def Obligations.SelchAboveSevenIsNoOp : Prop :=
  ∀ (s : State) (f : Fields), s.apc.busy = false → 7 < f.pin.toNat →
    exec (.selch f) s = .next { s with
      apc := { s.apc.latch ⟨5#4, f⟩ with busy := false, step := 0, status := .ok, done := true } }

/-- R221: `RREG reg` sends `[0x10|reg, 0x00]` and reads one byte in the same bracket, with no wait; the result is the byte
zero-extended. -/
def Obligations.RregReadsRegister : Prop :=
  ∀ (s : State) (f : Fields) (b : Byte) (sel : List SelAnswer) (tx : List TxAnswer) (rx : List RxAnswer),
    s.apc.busy = false → f.reg.toNat ≤ 10 →
    s.env.sel = .ok :: .ok :: sel → s.env.tx = .ok 2 :: tx → s.env.rx = .ok [b] :: rx →
    exec (.rreg f) s = .next { s with
      apc := { s.apc.latch ⟨2#4, f⟩ with
        busy := false, step := 5, txb := { s.apc.txb with b0 := 0x10#8 ||| f.reg.zeroExtend 8, b1 := 0x00#8 },
        txLen := 2#3, rxb := { s.apc.rxb with b0 := b }, cs := .deasserted,
        res := b.zeroExtend 32, resValid := true, status := .ok, done := true }
      env := { s.env with sel := sel, tx := tx, rx := rx }
      trace := s.trace ++ okReadBracket [0x10#8 ||| f.reg.zeroExtend 8, 0x00#8] [b] }

/-- R222: `RDID` waits, reads the status register, and its result is the high nibble. -/
def Obligations.RdidReadsChipId : Prop :=
  ∀ (s : State) (f : Fields) (k : Nat) (b : Byte) (pin : List PinAnswer) (sel : List SelAnswer) (tx : List TxAnswer)
    (rx : List RxAnswer),
    s.apc.busy = false → k < s.cfg.pollBound.toNat → s.env.pin = readyAfter s.cfg k pin →
    s.env.sel = .ok :: .ok :: sel → s.env.tx = .ok 2 :: tx → s.env.rx = .ok [b] :: rx →
    exec (.rdid f) s = .next { s with
      apc := { s.apc.latch ⟨3#4, f⟩ with
        busy := false, step := 7, sync := .settled, pollCnt := BitVec.ofNat 32 (k + 1),
        txb := { s.apc.txb with b0 := 0x10#8, b1 := 0x00#8 }, txLen := 2#3,
        rxb := { s.apc.rxb with b0 := b }, cs := .deasserted,
        res := (b.extractLsb' 4 4).zeroExtend 32, resValid := true, status := .ok, done := true }
      env := { s.env with sel := sel, tx := tx, rx := rx, pin := pin }
      trace := s.trace ++ (notReadyReads s.cfg k ++ [readyRead s.cfg] ++ okReadBracket [0x10#8, 0x00#8] [b]) }

/-- R201 to R206: `ACQ pin` with a channel 0 to 7: wait, multiplexer write, SYNC, WAKEUP, delay, READ_DATA and three
bytes, decode. -/
def Obligations.AcqReadsSample : Prop :=
  ∀ (s : State) (f : Fields) (k : Nat) (b0 b1 b2 : Byte) (pin : List PinAnswer) (sel : List SelAnswer)
    (tx : List TxAnswer) (rx : List RxAnswer),
    s.apc.busy = false → f.pin.toNat ≤ 7 → k < s.cfg.pollBound.toNat → s.env.pin = readyAfter s.cfg k pin →
    s.env.sel = List.replicate 8 .ok ++ sel → s.env.tx = .ok 3 :: .ok 1 :: .ok 1 :: .ok 1 :: tx →
    s.env.rx = .ok [b0, b1, b2] :: rx →
    exec (.acq f) s = .next { s with
      apc := { s.apc.latch ⟨6#4, f⟩ with
        busy := false, step := 17, sync := .settled, pollCnt := BitVec.ofNat 32 (k + 1),
        txb := { s.apc.txb with b0 := 0x01#8, b1 := 0x00#8, b2 := (f.pin <<< 4) ||| 0x08#8 }, txLen := 1#3,
        rxb := ⟨b0, b1, b2⟩, cs := .deasserted,
        res := decodeSample b0 b1 b2, resValid := true, status := .ok, done := true }
      env := { s.env with sel := sel, tx := tx, rx := rx, pin := pin }
      trace := s.trace ++ (notReadyReads s.cfg k ++ [readyRead s.cfg] ++
        okBracket [0x51#8, 0x00#8, (f.pin <<< 4) ||| 0x08#8] ++ okBracket [0xFC#8] ++ okBracket [0x00#8] ++ [.delay] ++
        okReadBracket [0x01#8] [b0, b1, b2]) }

/-- R209: `ACQ pin` with a channel above 7 skips the channel selection whole and acquires all the same, without a look at
the readiness line. -/
def Obligations.AcqAboveSevenStillAcquires : Prop :=
  ∀ (s : State) (f : Fields) (b0 b1 b2 : Byte) (sel : List SelAnswer) (tx : List TxAnswer) (rx : List RxAnswer),
    s.apc.busy = false → 7 < f.pin.toNat →
    s.env.sel = List.replicate 6 .ok ++ sel → s.env.tx = .ok 1 :: .ok 1 :: .ok 1 :: tx →
    s.env.rx = .ok [b0, b1, b2] :: rx →
    exec (.acq f) s = .next { s with
      apc := { s.apc.latch ⟨6#4, f⟩ with
        busy := false, step := 12, txb := { s.apc.txb with b0 := 0x01#8 }, txLen := 1#3,
        rxb := ⟨b0, b1, b2⟩, cs := .deasserted,
        res := decodeSample b0 b1 b2, resValid := true, status := .ok, done := true }
      env := { s.env with sel := sel, tx := tx, rx := rx }
      trace := s.trace ++ (okBracket [0xFC#8] ++ okBracket [0x00#8] ++ [.delay] ++
        okReadBracket [0x01#8] [b0, b1, b2]) }

/-- R147: READ_REG is sent by RREG with count 1; a register above 10 is an illegal request (the reading of a frame
presented by itself is the model's choice, log 1). -/
def Obligations.ReadRegFrameIsRreg : Prop :=
  ∀ (s : State) (reg : RegAddr), s.apc.busy = false →
    (∀ (b : Byte) (sel : List SelAnswer) (tx : List TxAnswer) (rx : List RxAnswer), reg.toNat ≤ 10 →
      s.env.sel = .ok :: .ok :: sel → s.env.tx = .ok 2 :: tx → s.env.rx = .ok [b] :: rx →
      exec (.readReg reg 0#8) s = .next { s with
        apc := { s.apc.latch ⟨2#4, ⟨reg, 0#8, 0#8, 0#32⟩⟩ with
          busy := false, step := 5, txb := { s.apc.txb with b0 := 0x10#8 ||| reg.zeroExtend 8, b1 := 0x00#8 },
          txLen := 2#3, rxb := { s.apc.rxb with b0 := b }, cs := .deasserted,
          res := b.zeroExtend 32, resValid := true, status := .ok, done := true }
        env := { s.env with sel := sel, tx := tx, rx := rx }
        trace := s.trace ++ okReadBracket [0x10#8 ||| reg.zeroExtend 8, 0x00#8] [b] }) ∧
    (10 < reg.toNat → exec (.readReg reg 0#8) s = .next { s with
      apc := { s.apc.latch ⟨2#4, ⟨reg, 0#8, 0#8, 0#32⟩⟩ with status := .illegalRequest, done := true } })

/-- R148: WRITE_REG with one byte is sent by WREG, with four bytes from register 0 by CONFIG; a register above 10 is an
illegal request (the reading of a frame presented by itself is the model's choice, log 1). -/
def Obligations.WriteRegFrameIsWregOrConfig : Prop :=
  ∀ s : State, s.apc.busy = false →
    (∀ (reg : RegAddr) (v : Byte) (k : Nat) (pin : List PinAnswer) (sel : List SelAnswer) (tx : List TxAnswer),
      reg.toNat ≤ 10 → k < s.cfg.pollBound.toNat →
      s.env.pin = readyAfter s.cfg k pin → s.env.sel = .ok :: .ok :: sel → s.env.tx = .ok 3 :: tx →
      exec (.writeReg reg [v]) s = .next { s with
        apc := { s.apc.latch ⟨1#4, ⟨reg, 0#8, 0#8, v.zeroExtend 32⟩⟩ with
          busy := false, step := 5, sync := .settled, pollCnt := BitVec.ofNat 32 (k + 1),
          txb := { s.apc.txb with b0 := 0x50#8 ||| reg.zeroExtend 8, b1 := 0x00#8, b2 := v },
          txLen := 3#3, cs := .deasserted, status := .ok, done := true }
        env := { s.env with sel := sel, tx := tx, pin := pin }
        trace := s.trace ++ (notReadyReads s.cfg k ++ [readyRead s.cfg] ++
          okBracket [0x50#8 ||| reg.zeroExtend 8, 0x00#8, v]) }) ∧
    (∀ (reg : RegAddr) (v : Byte), 10 < reg.toNat → exec (.writeReg reg [v]) s = .next { s with
      apc := { s.apc.latch ⟨1#4, ⟨reg, 0#8, 0#8, v.zeroExtend 32⟩⟩ with
        status := .illegalRequest, done := true } }) ∧
    (∀ (v0 v1 v2 v3 : Byte) (k : Nat) (pin : List PinAnswer) (sel : List SelAnswer) (tx : List TxAnswer),
      k < s.cfg.pollBound.toNat →
      s.env.pin = readyAfter s.cfg k pin → s.env.sel = .ok :: .ok :: sel → s.env.tx = .ok 6 :: tx →
      exec (.writeReg 0#4 [v0, v1, v2, v3]) s = .next { s with
        apc := { s.apc.latch ⟨7#4, ⟨0#4, 0#8, 0#8, v3 ++ v2 ++ v1 ++ v0⟩⟩ with
          busy := false, step := 5, sync := .settled, pollCnt := BitVec.ofNat 32 (k + 1),
          txb := ⟨0x50#8, 0x03#8, v0, v1, v2, v3⟩, txLen := 6#3, cs := .deasserted, status := .ok, done := true }
        env := { s.env with sel := sel, tx := tx, pin := pin }
        trace := s.trace ++ (notReadyReads s.cfg k ++ [readyRead s.cfg] ++
          okBracket [0x50#8, 0x03#8, v0, v1, v2, v3]) })

/-- R113, R118, R142: a READ_REG frame with a count other than 1, a WRITE_REG frame the APC never sends, and bytes that are
no frame stop under their own names (the stop is the model's choice, log 10, log 11). -/
def Obligations.FramesNeverSentAreRefused : Prop :=
  (∀ (s : State) (reg : RegAddr) (c : Byte), c ≠ 0#8 → exec (.readReg reg c) s = .refused .frameNeverSent) ∧
  (∀ (s : State) (reg : RegAddr) (vs : List Byte), vs.length ≠ 1 → ¬ (vs.length = 4 ∧ reg = 0#4) →
    exec (.writeReg reg vs) s = .refused .frameNeverSent) ∧
  (∀ (s : State) (bytes : List Byte) (rest : List Presented) (e : DecodeError), s.rst = false → s.apc.busy = false →
    s.inbox = .frame bytes :: rest → decode (.frame bytes) = .error e → step s = .refused (.undefinedFrame e))

/-- R174, R177, R208, R262: under Propagate, WREG, CONFIG, and SELCH and ACQ with a channel 0 to 7 abort with TimeoutError
when the line never reads ready within the bound; nothing has been sent. -/
def Obligations.WriteWaitTimeoutAborts : Prop :=
  ∀ (s : State) (f : Fields) (i : Instr) (o : BitVec 4) (pin : List PinAnswer),
    (i = .wreg f ∧ o = 1#4 ∧ f.reg.toNat ≤ 10 ∨ i = .config f ∧ o = 7#4 ∨
      i = .selch f ∧ o = 5#4 ∧ f.pin.toNat ≤ 7 ∨ i = .acq f ∧ o = 6#4 ∧ f.pin.toNat ≤ 7) →
    s.apc.busy = false → s.cfg.onWriteWaitTimeout = .propagate →
    s.env.pin = List.replicate s.cfg.pollBound.toNat (.ok s.cfg.notReadyLevel) ++ pin →
    exec i s = .next { s with
      apc := { s.apc.latch ⟨o, f⟩ with
        busy := false, step := 1, sync := .polling, pollCnt := s.cfg.pollBound, status := .timeoutError, done := true }
      env := { s.env with pin := pin }
      trace := s.trace ++ notReadyReads s.cfg s.cfg.pollBound.toNat }

/-- R174, R177: under Suppress, the same timeout is followed by the write all the same and leaves no mark but `sync` =
Polling: WREG, CONFIG, and SELCH with a channel 0 to 7. -/
def Obligations.WriteWaitTimeoutSuppressed : Prop :=
  ∀ (s : State) (f : Fields) (i : Instr) (o : BitVec 4) (fr : List Byte) (pin : List PinAnswer) (sel : List SelAnswer)
    (tx : List TxAnswer),
    (i = .wreg f ∧ o = 1#4 ∧ f.reg.toNat ≤ 10 ∧
        fr = [0x50#8 ||| f.reg.zeroExtend 8, 0x00#8, f.dat.extractLsb' 0 8] ∨
      i = .config f ∧ o = 7#4 ∧ fr = [0x50#8, 0x03#8, f.dat.extractLsb' 0 8, f.dat.extractLsb' 8 8,
        f.dat.extractLsb' 16 8, f.dat.extractLsb' 24 8] ∨
      i = .selch f ∧ o = 5#4 ∧ f.pin.toNat ≤ 7 ∧ fr = [0x51#8, 0x00#8, (f.pin <<< 4) ||| 0x08#8]) →
    s.apc.busy = false → s.cfg.onWriteWaitTimeout = .suppress →
    s.env.pin = List.replicate s.cfg.pollBound.toNat (.ok s.cfg.notReadyLevel) ++ pin →
    s.env.sel = .ok :: .ok :: sel → s.env.tx = .ok fr.length :: tx →
    exec i s = .next { s with
      apc := { s.apc.latch ⟨o, f⟩ with
        busy := false, step := 5, sync := .polling, pollCnt := s.cfg.pollBound,
        txb := s.apc.txb.load fr, txLen := BitVec.ofNat 3 fr.length, cs := .deasserted, status := .ok, done := true }
      env := { s.env with sel := sel, tx := tx, pin := pin }
      trace := s.trace ++ (notReadyReads s.cfg s.cfg.pollBound.toNat ++ okBracket fr) }

/-- R208: under Suppress an acquisition whose wait timed out ends OK with whatever three bytes came. -/
def Obligations.AcqSuppressedTimeoutGivesSample : Prop :=
  ∀ (s : State) (f : Fields) (b0 b1 b2 : Byte) (pin : List PinAnswer) (sel : List SelAnswer)
    (tx : List TxAnswer) (rx : List RxAnswer),
    s.apc.busy = false → f.pin.toNat ≤ 7 → s.cfg.onWriteWaitTimeout = .suppress →
    s.env.pin = List.replicate s.cfg.pollBound.toNat (.ok s.cfg.notReadyLevel) ++ pin →
    s.env.sel = List.replicate 8 .ok ++ sel → s.env.tx = .ok 3 :: .ok 1 :: .ok 1 :: .ok 1 :: tx →
    s.env.rx = .ok [b0, b1, b2] :: rx →
    exec (.acq f) s = .next { s with
      apc := { s.apc.latch ⟨6#4, f⟩ with
        busy := false, step := 17, sync := .polling, pollCnt := s.cfg.pollBound,
        txb := { s.apc.txb with b0 := 0x01#8, b1 := 0x00#8, b2 := (f.pin <<< 4) ||| 0x08#8 }, txLen := 1#3,
        rxb := ⟨b0, b1, b2⟩, cs := .deasserted,
        res := decodeSample b0 b1 b2, resValid := true, status := .ok, done := true }
      env := { s.env with sel := sel, tx := tx, rx := rx, pin := pin }
      trace := s.trace ++ (notReadyReads s.cfg s.cfg.pollBound.toNat ++
        okBracket [0x51#8, 0x00#8, (f.pin <<< 4) ||| 0x08#8] ++ okBracket [0xFC#8] ++ okBracket [0x00#8] ++ [.delay] ++
        okReadBracket [0x01#8] [b0, b1, b2]) }

/-! ## The whole machine -/

/-- The invariant holds after reset. -/
def Obligations.ResetHasInvariant : Prop := Inv State.reset

/-- Every step keeps the invariant: `step` stays inside the running micro-program (R22), only a legal request runs (R29),
`poll_cnt` never passes the bound (R253), code 3 is never produced (R263), `cs` is where the operation's last select put
it and is so still when the operation ends OK (R25), a result is valid exactly when the operation wrote it and never after
an error (R27). -/
def Obligations.StepKeepsInvariant : Prop :=
  ∀ s t : State, Inv s → step s = .next t → Inv t

/-- R66: every transfer of an operation stands between its own assert and its own deassert, with no read of the readiness
line and no delay between them, and a bracket holds one frame, or one frame and its reply, whatever the environment
answers. An operation that has ended without TransportError, OK above all, has closed its last bracket; one that a call
ended with TransportError, or whose call is not answered, may have left it open (R267). -/
def Obligations.TransfersAreBracketed : Prop :=
  ∀ (i : Instr) (s t : State), s.apc.busy = false → exec i s = .next t →
    ∃ p, brackets .outside (appended s t) = some p ∧
      (t.apc.busy = false → t.apc.status ≠ .transportError → p = .outside)

/-- R62, R63, R64: the only calls an operation makes are selects, write-only transfers of 1, 2, 3 or 6 bytes, read-only
transfers of 1 or 3 bytes, and reads of the readiness pin. -/
def Obligations.OnlyTheSpecifiedCalls : Prop :=
  ∀ (i : Instr) (s t : State) (e : Event), s.apc.busy = false → exec i s = .next t → e ∈ appended s t →
    e = .delay ∨ (∃ l, e.call? = some (.selectLine l)) ∨
    (∃ fr, e.call? = some (.busTransfer (some fr) none fr.length) ∧ fr.length ∈ [1, 2, 3, 6]) ∨
    (∃ n, e.call? = some (.busTransfer none (some n) n) ∧ n ∈ [1, 3]) ∨
    e.call? = some (.digitalRead s.cfg.drdyPinId)

/-- R207, R261, R267, R269: a failed call is the last call of its operation, and the operation has ended with
TransportError; but for a failed read of the readiness line under TreatAsReady. -/
def Obligations.NothingFollowsAFailure : Prop :=
  ∀ (i : Instr) (s t : State) (es es' : List Event) (e : Event), s.apc.busy = false → exec i s = .next t →
    appended s t = es ++ e :: es' → e.failed = true →
    (∃ id, e = .pin id .err ∧ s.cfg.onPinReadError = .treatAsReady) ∨
    (es' = [] ∧ t.apc.busy = false ∧ t.apc.done = true ∧ t.apc.status = .transportError)

/-- R270: an operation that has ended has ended with one of the codes the matrix gives it. -/
def Obligations.OutcomesFollowTheMatrix : Prop :=
  ∀ (i : Instr) (s t : State), s.apc.busy = false → exec i s = .next t → t.apc.busy = false →
    outcomeAllowed s.cfg i t.apc.status = true

/-- R27: RES is written only by an operation that ends OK and produces a result (that READ_REG presented by itself is RREG,
so that it has a result, is the model's choice, log 1). -/
def Obligations.NoPartialResult : Prop :=
  ∀ (i : Instr) (s t : State), s.apc.busy = false → exec i s = .next t → t.apc.busy = false →
    t.apc.done = true ∧
    (t.apc.status ≠ .ok → t.apc.res = s.apc.res ∧ t.apc.resValid = false) ∧
    (t.apc.status = .ok → t.apc.resValid = producesResult i) ∧
    (producesResult i = false → t.apc.res = s.apc.res)

/-- R26: nothing is cached. What an operation does to the environment, how far it gets, its outcome and its result do not
depend on what earlier operations left in the registers. -/
def Obligations.NothingIsCached : Prop :=
  ∀ (i : Instr) (s₁ s₂ t₁ t₂ : State), s₁.apc.busy = false → s₂.apc.busy = false →
    s₁.cfg = s₂.cfg → s₁.env = s₂.env → exec i s₁ = .next t₁ → exec i s₂ = .next t₂ →
    appended s₁ t₁ = appended s₂ t₂ ∧ t₁.env = t₂.env ∧ t₁.apc.busy = t₂.apc.busy ∧
    (i.wellFormed = true → t₁.apc.step = t₂.apc.step) ∧ t₁.apc.done = t₂.apc.done ∧ t₁.apc.resValid = t₂.apc.resValid ∧
    (t₁.apc.done = true → t₁.apc.status = t₂.apc.status) ∧ (t₁.apc.resValid = true → t₁.apc.res = t₂.apc.res)

/-- R117: `SELCH p` with a channel 0 to 7 differs from `WREG 1, (p<<4)|0x08` in the latches only, whatever the environment
answers. -/
def Obligations.SelchIsWregOfMultiplexer : Prop :=
  ∀ (s : State) (f g : Fields), s.apc.busy = false → f.pin.toNat ≤ 7 → g.reg = 1#4 →
    g.dat.extractLsb' 0 8 = (f.pin <<< 4) ||| 0x08#8 →
    ∃ t u, exec (.selch f) s = .next t ∧ exec (.wreg g) s = .next u ∧
      u = { t with apc := { t.apc with
        op := 1#4, aReg := g.reg, aPin := g.pin, aCmd := g.cmd, aDat := g.dat } }

/-- R25: `cs` is the level the APC last successfully asked for, after every step but a reset. The invariant R25 derives,
Deasserted whenever the last operation ended OK, holds from reset on through every step that does not end an operation with
TransportError (an APC that is `Released` and idle has `cs` Deasserted, whatever its last operation was), and again after
every operation that makes a select and ends OK. An abort inside a bracket breaks it (R267), and an operation that makes no
select leaves `cs` as it was: that far the micro-programs bear the invariant out (log 14). The only two such are WAITRDY
(R178) and SELCH with a channel above 7 (R192): every other operation that ends OK leaves `cs` Deasserted, whatever it was
before. -/
def Obligations.ShadowFollowsSelects : Prop :=
  (∀ s t : State, s.rst = false → step s = .next t → t.apc.cs = shadowAfter s.apc.cs (appended s t)) ∧
  (∀ (i : Instr) (s t : State), s.apc.busy = false → exec i s = .next t →
    t.apc.cs = shadowAfter s.apc.cs (appended s t) ∧
    (t.apc.busy = false → t.apc.status = .ok → ((∃ e ∈ appended s t, e.isSelect = true) ∨ s.apc.cs = .deasserted) →
      t.apc.cs = .deasserted)) ∧
  (∀ (i : Instr) (s t : State), s.apc.busy = false → exec i s = .next t → t.apc.busy = false → t.apc.status = .ok →
    t.apc.cs = .deasserted ∨
      ((∃ f, i = .waitrdy f ∨ (i = .selch f ∧ 7 < f.pin.toNat)) ∧ t.apc.cs = s.apc.cs)) ∧
  Released State.reset ∧
  (∀ s t : State, Released s → step s = .next t →
    Released t ∨ (t.apc.busy = false ∧ t.apc.done = true ∧ t.apc.status = .transportError))
end

