-- ==== Sys2Proof/Laws/State.lean ====
section
/-! SUPPORT. One lemma per field and update of the registers and of the state, true by rfl: no later proof unfolds a record update. -/

namespace Sys2Proof.Machine

/-! ### Apc.advance -/

@[simp] theorem Apc.advance_busy (a : Apc) : (a.advance).busy = a.busy := rfl
@[simp] theorem Apc.advance_op (a : Apc) : (a.advance).op = a.op := rfl
@[simp] theorem Apc.advance_aReg (a : Apc) : (a.advance).aReg = a.aReg := rfl
@[simp] theorem Apc.advance_aPin (a : Apc) : (a.advance).aPin = a.aPin := rfl
@[simp] theorem Apc.advance_aCmd (a : Apc) : (a.advance).aCmd = a.aCmd := rfl
@[simp] theorem Apc.advance_aDat (a : Apc) : (a.advance).aDat = a.aDat := rfl
@[simp] theorem Apc.advance_step (a : Apc) : (a.advance).step = a.step + 1 := rfl
@[simp] theorem Apc.advance_sync (a : Apc) : (a.advance).sync = a.sync := rfl
@[simp] theorem Apc.advance_pollCnt (a : Apc) : (a.advance).pollCnt = a.pollCnt := rfl
@[simp] theorem Apc.advance_txb (a : Apc) : (a.advance).txb = a.txb := rfl
@[simp] theorem Apc.advance_txLen (a : Apc) : (a.advance).txLen = a.txLen := rfl
@[simp] theorem Apc.advance_rxb (a : Apc) : (a.advance).rxb = a.rxb := rfl
@[simp] theorem Apc.advance_cs (a : Apc) : (a.advance).cs = a.cs := rfl
@[simp] theorem Apc.advance_res (a : Apc) : (a.advance).res = a.res := rfl
@[simp] theorem Apc.advance_resValid (a : Apc) : (a.advance).resValid = a.resValid := rfl
@[simp] theorem Apc.advance_status (a : Apc) : (a.advance).status = a.status := rfl
@[simp] theorem Apc.advance_done (a : Apc) : (a.advance).done = a.done := rfl
@[simp] theorem Apc.advance_latched (a : Apc) : (a.advance).latched = a.latched := rfl

/-! ### Apc.enterWait -/

@[simp] theorem Apc.enterWait_busy (a : Apc) : (a.enterWait).busy = a.busy := rfl
@[simp] theorem Apc.enterWait_op (a : Apc) : (a.enterWait).op = a.op := rfl
@[simp] theorem Apc.enterWait_aReg (a : Apc) : (a.enterWait).aReg = a.aReg := rfl
@[simp] theorem Apc.enterWait_aPin (a : Apc) : (a.enterWait).aPin = a.aPin := rfl
@[simp] theorem Apc.enterWait_aCmd (a : Apc) : (a.enterWait).aCmd = a.aCmd := rfl
@[simp] theorem Apc.enterWait_aDat (a : Apc) : (a.enterWait).aDat = a.aDat := rfl
@[simp] theorem Apc.enterWait_step (a : Apc) : (a.enterWait).step = a.step := rfl
@[simp] theorem Apc.enterWait_sync (a : Apc) : (a.enterWait).sync = .polling := rfl
@[simp] theorem Apc.enterWait_pollCnt (a : Apc) : (a.enterWait).pollCnt = 0#32 := rfl
@[simp] theorem Apc.enterWait_txb (a : Apc) : (a.enterWait).txb = a.txb := rfl
@[simp] theorem Apc.enterWait_txLen (a : Apc) : (a.enterWait).txLen = a.txLen := rfl
@[simp] theorem Apc.enterWait_rxb (a : Apc) : (a.enterWait).rxb = a.rxb := rfl
@[simp] theorem Apc.enterWait_cs (a : Apc) : (a.enterWait).cs = a.cs := rfl
@[simp] theorem Apc.enterWait_res (a : Apc) : (a.enterWait).res = a.res := rfl
@[simp] theorem Apc.enterWait_resValid (a : Apc) : (a.enterWait).resValid = a.resValid := rfl
@[simp] theorem Apc.enterWait_status (a : Apc) : (a.enterWait).status = a.status := rfl
@[simp] theorem Apc.enterWait_done (a : Apc) : (a.enterWait).done = a.done := rfl
@[simp] theorem Apc.enterWait_latched (a : Apc) : (a.enterWait).latched = a.latched := rfl

/-! ### Apc.countRead -/

@[simp] theorem Apc.countRead_busy (a : Apc) : (a.countRead).busy = a.busy := rfl
@[simp] theorem Apc.countRead_op (a : Apc) : (a.countRead).op = a.op := rfl
@[simp] theorem Apc.countRead_aReg (a : Apc) : (a.countRead).aReg = a.aReg := rfl
@[simp] theorem Apc.countRead_aPin (a : Apc) : (a.countRead).aPin = a.aPin := rfl
@[simp] theorem Apc.countRead_aCmd (a : Apc) : (a.countRead).aCmd = a.aCmd := rfl
@[simp] theorem Apc.countRead_aDat (a : Apc) : (a.countRead).aDat = a.aDat := rfl
@[simp] theorem Apc.countRead_step (a : Apc) : (a.countRead).step = a.step := rfl
@[simp] theorem Apc.countRead_sync (a : Apc) : (a.countRead).sync = a.sync := rfl
@[simp] theorem Apc.countRead_pollCnt (a : Apc) : (a.countRead).pollCnt = a.pollCnt + 1#32 := rfl
@[simp] theorem Apc.countRead_txb (a : Apc) : (a.countRead).txb = a.txb := rfl
@[simp] theorem Apc.countRead_txLen (a : Apc) : (a.countRead).txLen = a.txLen := rfl
@[simp] theorem Apc.countRead_rxb (a : Apc) : (a.countRead).rxb = a.rxb := rfl
@[simp] theorem Apc.countRead_cs (a : Apc) : (a.countRead).cs = a.cs := rfl
@[simp] theorem Apc.countRead_res (a : Apc) : (a.countRead).res = a.res := rfl
@[simp] theorem Apc.countRead_resValid (a : Apc) : (a.countRead).resValid = a.resValid := rfl
@[simp] theorem Apc.countRead_status (a : Apc) : (a.countRead).status = a.status := rfl
@[simp] theorem Apc.countRead_done (a : Apc) : (a.countRead).done = a.done := rfl
@[simp] theorem Apc.countRead_latched (a : Apc) : (a.countRead).latched = a.latched := rfl

/-! ### Apc.settle -/

@[simp] theorem Apc.settle_busy (a : Apc) : (a.settle).busy = a.busy := rfl
@[simp] theorem Apc.settle_op (a : Apc) : (a.settle).op = a.op := rfl
@[simp] theorem Apc.settle_aReg (a : Apc) : (a.settle).aReg = a.aReg := rfl
@[simp] theorem Apc.settle_aPin (a : Apc) : (a.settle).aPin = a.aPin := rfl
@[simp] theorem Apc.settle_aCmd (a : Apc) : (a.settle).aCmd = a.aCmd := rfl
@[simp] theorem Apc.settle_aDat (a : Apc) : (a.settle).aDat = a.aDat := rfl
@[simp] theorem Apc.settle_step (a : Apc) : (a.settle).step = a.step := rfl
@[simp] theorem Apc.settle_sync (a : Apc) : (a.settle).sync = .settled := rfl
@[simp] theorem Apc.settle_pollCnt (a : Apc) : (a.settle).pollCnt = a.pollCnt := rfl
@[simp] theorem Apc.settle_txb (a : Apc) : (a.settle).txb = a.txb := rfl
@[simp] theorem Apc.settle_txLen (a : Apc) : (a.settle).txLen = a.txLen := rfl
@[simp] theorem Apc.settle_rxb (a : Apc) : (a.settle).rxb = a.rxb := rfl
@[simp] theorem Apc.settle_cs (a : Apc) : (a.settle).cs = a.cs := rfl
@[simp] theorem Apc.settle_res (a : Apc) : (a.settle).res = a.res := rfl
@[simp] theorem Apc.settle_resValid (a : Apc) : (a.settle).resValid = a.resValid := rfl
@[simp] theorem Apc.settle_status (a : Apc) : (a.settle).status = a.status := rfl
@[simp] theorem Apc.settle_done (a : Apc) : (a.settle).done = a.done := rfl
@[simp] theorem Apc.settle_latched (a : Apc) : (a.settle).latched = a.latched := rfl

/-! ### Apc.setCs -/

@[simp] theorem Apc.setCs_busy (a : Apc) (l : SelLevel) : (a.setCs l).busy = a.busy := rfl
@[simp] theorem Apc.setCs_op (a : Apc) (l : SelLevel) : (a.setCs l).op = a.op := rfl
@[simp] theorem Apc.setCs_aReg (a : Apc) (l : SelLevel) : (a.setCs l).aReg = a.aReg := rfl
@[simp] theorem Apc.setCs_aPin (a : Apc) (l : SelLevel) : (a.setCs l).aPin = a.aPin := rfl
@[simp] theorem Apc.setCs_aCmd (a : Apc) (l : SelLevel) : (a.setCs l).aCmd = a.aCmd := rfl
@[simp] theorem Apc.setCs_aDat (a : Apc) (l : SelLevel) : (a.setCs l).aDat = a.aDat := rfl
@[simp] theorem Apc.setCs_step (a : Apc) (l : SelLevel) : (a.setCs l).step = a.step := rfl
@[simp] theorem Apc.setCs_sync (a : Apc) (l : SelLevel) : (a.setCs l).sync = a.sync := rfl
@[simp] theorem Apc.setCs_pollCnt (a : Apc) (l : SelLevel) : (a.setCs l).pollCnt = a.pollCnt := rfl
@[simp] theorem Apc.setCs_txb (a : Apc) (l : SelLevel) : (a.setCs l).txb = a.txb := rfl
@[simp] theorem Apc.setCs_txLen (a : Apc) (l : SelLevel) : (a.setCs l).txLen = a.txLen := rfl
@[simp] theorem Apc.setCs_rxb (a : Apc) (l : SelLevel) : (a.setCs l).rxb = a.rxb := rfl
@[simp] theorem Apc.setCs_cs (a : Apc) (l : SelLevel) : (a.setCs l).cs = l := rfl
@[simp] theorem Apc.setCs_res (a : Apc) (l : SelLevel) : (a.setCs l).res = a.res := rfl
@[simp] theorem Apc.setCs_resValid (a : Apc) (l : SelLevel) : (a.setCs l).resValid = a.resValid := rfl
@[simp] theorem Apc.setCs_status (a : Apc) (l : SelLevel) : (a.setCs l).status = a.status := rfl
@[simp] theorem Apc.setCs_done (a : Apc) (l : SelLevel) : (a.setCs l).done = a.done := rfl
@[simp] theorem Apc.setCs_latched (a : Apc) (l : SelLevel) : (a.setCs l).latched = a.latched := rfl

/-! ### Apc.loadTx -/

@[simp] theorem Apc.loadTx_busy (a : Apc) (fr : List Byte) : (a.loadTx fr).busy = a.busy := rfl
@[simp] theorem Apc.loadTx_op (a : Apc) (fr : List Byte) : (a.loadTx fr).op = a.op := rfl
@[simp] theorem Apc.loadTx_aReg (a : Apc) (fr : List Byte) : (a.loadTx fr).aReg = a.aReg := rfl
@[simp] theorem Apc.loadTx_aPin (a : Apc) (fr : List Byte) : (a.loadTx fr).aPin = a.aPin := rfl
@[simp] theorem Apc.loadTx_aCmd (a : Apc) (fr : List Byte) : (a.loadTx fr).aCmd = a.aCmd := rfl
@[simp] theorem Apc.loadTx_aDat (a : Apc) (fr : List Byte) : (a.loadTx fr).aDat = a.aDat := rfl
@[simp] theorem Apc.loadTx_step (a : Apc) (fr : List Byte) : (a.loadTx fr).step = a.step := rfl
@[simp] theorem Apc.loadTx_sync (a : Apc) (fr : List Byte) : (a.loadTx fr).sync = a.sync := rfl
@[simp] theorem Apc.loadTx_pollCnt (a : Apc) (fr : List Byte) : (a.loadTx fr).pollCnt = a.pollCnt := rfl
@[simp] theorem Apc.loadTx_txb (a : Apc) (fr : List Byte) : (a.loadTx fr).txb = a.txb.load fr := rfl
@[simp] theorem Apc.loadTx_txLen (a : Apc) (fr : List Byte) : (a.loadTx fr).txLen = BitVec.ofNat 3 fr.length := rfl
@[simp] theorem Apc.loadTx_rxb (a : Apc) (fr : List Byte) : (a.loadTx fr).rxb = a.rxb := rfl
@[simp] theorem Apc.loadTx_cs (a : Apc) (fr : List Byte) : (a.loadTx fr).cs = a.cs := rfl
@[simp] theorem Apc.loadTx_res (a : Apc) (fr : List Byte) : (a.loadTx fr).res = a.res := rfl
@[simp] theorem Apc.loadTx_resValid (a : Apc) (fr : List Byte) : (a.loadTx fr).resValid = a.resValid := rfl
@[simp] theorem Apc.loadTx_status (a : Apc) (fr : List Byte) : (a.loadTx fr).status = a.status := rfl
@[simp] theorem Apc.loadTx_done (a : Apc) (fr : List Byte) : (a.loadTx fr).done = a.done := rfl
@[simp] theorem Apc.loadTx_latched (a : Apc) (fr : List Byte) : (a.loadTx fr).latched = a.latched := rfl

/-! ### Apc.loadRx -/

@[simp] theorem Apc.loadRx_busy (a : Apc) (bs : List Byte) : (a.loadRx bs).busy = a.busy := rfl
@[simp] theorem Apc.loadRx_op (a : Apc) (bs : List Byte) : (a.loadRx bs).op = a.op := rfl
@[simp] theorem Apc.loadRx_aReg (a : Apc) (bs : List Byte) : (a.loadRx bs).aReg = a.aReg := rfl
@[simp] theorem Apc.loadRx_aPin (a : Apc) (bs : List Byte) : (a.loadRx bs).aPin = a.aPin := rfl
@[simp] theorem Apc.loadRx_aCmd (a : Apc) (bs : List Byte) : (a.loadRx bs).aCmd = a.aCmd := rfl
@[simp] theorem Apc.loadRx_aDat (a : Apc) (bs : List Byte) : (a.loadRx bs).aDat = a.aDat := rfl
@[simp] theorem Apc.loadRx_step (a : Apc) (bs : List Byte) : (a.loadRx bs).step = a.step := rfl
@[simp] theorem Apc.loadRx_sync (a : Apc) (bs : List Byte) : (a.loadRx bs).sync = a.sync := rfl
@[simp] theorem Apc.loadRx_pollCnt (a : Apc) (bs : List Byte) : (a.loadRx bs).pollCnt = a.pollCnt := rfl
@[simp] theorem Apc.loadRx_txb (a : Apc) (bs : List Byte) : (a.loadRx bs).txb = a.txb := rfl
@[simp] theorem Apc.loadRx_txLen (a : Apc) (bs : List Byte) : (a.loadRx bs).txLen = a.txLen := rfl
@[simp] theorem Apc.loadRx_rxb (a : Apc) (bs : List Byte) : (a.loadRx bs).rxb = a.rxb.load bs := rfl
@[simp] theorem Apc.loadRx_cs (a : Apc) (bs : List Byte) : (a.loadRx bs).cs = a.cs := rfl
@[simp] theorem Apc.loadRx_res (a : Apc) (bs : List Byte) : (a.loadRx bs).res = a.res := rfl
@[simp] theorem Apc.loadRx_resValid (a : Apc) (bs : List Byte) : (a.loadRx bs).resValid = a.resValid := rfl
@[simp] theorem Apc.loadRx_status (a : Apc) (bs : List Byte) : (a.loadRx bs).status = a.status := rfl
@[simp] theorem Apc.loadRx_done (a : Apc) (bs : List Byte) : (a.loadRx bs).done = a.done := rfl
@[simp] theorem Apc.loadRx_latched (a : Apc) (bs : List Byte) : (a.loadRx bs).latched = a.latched := rfl

/-! ### Apc.setRes -/

@[simp] theorem Apc.setRes_busy (a : Apc) (v : Word) : (a.setRes v).busy = a.busy := rfl
@[simp] theorem Apc.setRes_op (a : Apc) (v : Word) : (a.setRes v).op = a.op := rfl
@[simp] theorem Apc.setRes_aReg (a : Apc) (v : Word) : (a.setRes v).aReg = a.aReg := rfl
@[simp] theorem Apc.setRes_aPin (a : Apc) (v : Word) : (a.setRes v).aPin = a.aPin := rfl
@[simp] theorem Apc.setRes_aCmd (a : Apc) (v : Word) : (a.setRes v).aCmd = a.aCmd := rfl
@[simp] theorem Apc.setRes_aDat (a : Apc) (v : Word) : (a.setRes v).aDat = a.aDat := rfl
@[simp] theorem Apc.setRes_step (a : Apc) (v : Word) : (a.setRes v).step = a.step := rfl
@[simp] theorem Apc.setRes_sync (a : Apc) (v : Word) : (a.setRes v).sync = a.sync := rfl
@[simp] theorem Apc.setRes_pollCnt (a : Apc) (v : Word) : (a.setRes v).pollCnt = a.pollCnt := rfl
@[simp] theorem Apc.setRes_txb (a : Apc) (v : Word) : (a.setRes v).txb = a.txb := rfl
@[simp] theorem Apc.setRes_txLen (a : Apc) (v : Word) : (a.setRes v).txLen = a.txLen := rfl
@[simp] theorem Apc.setRes_rxb (a : Apc) (v : Word) : (a.setRes v).rxb = a.rxb := rfl
@[simp] theorem Apc.setRes_cs (a : Apc) (v : Word) : (a.setRes v).cs = a.cs := rfl
@[simp] theorem Apc.setRes_res (a : Apc) (v : Word) : (a.setRes v).res = v := rfl
@[simp] theorem Apc.setRes_resValid (a : Apc) (v : Word) : (a.setRes v).resValid = true := rfl
@[simp] theorem Apc.setRes_status (a : Apc) (v : Word) : (a.setRes v).status = a.status := rfl
@[simp] theorem Apc.setRes_done (a : Apc) (v : Word) : (a.setRes v).done = a.done := rfl
@[simp] theorem Apc.setRes_latched (a : Apc) (v : Word) : (a.setRes v).latched = a.latched := rfl

/-! ### Apc.finish -/

@[simp] theorem Apc.finish_busy (a : Apc) : (a.finish).busy = false := rfl
@[simp] theorem Apc.finish_op (a : Apc) : (a.finish).op = a.op := rfl
@[simp] theorem Apc.finish_aReg (a : Apc) : (a.finish).aReg = a.aReg := rfl
@[simp] theorem Apc.finish_aPin (a : Apc) : (a.finish).aPin = a.aPin := rfl
@[simp] theorem Apc.finish_aCmd (a : Apc) : (a.finish).aCmd = a.aCmd := rfl
@[simp] theorem Apc.finish_aDat (a : Apc) : (a.finish).aDat = a.aDat := rfl
@[simp] theorem Apc.finish_step (a : Apc) : (a.finish).step = a.step := rfl
@[simp] theorem Apc.finish_sync (a : Apc) : (a.finish).sync = a.sync := rfl
@[simp] theorem Apc.finish_pollCnt (a : Apc) : (a.finish).pollCnt = a.pollCnt := rfl
@[simp] theorem Apc.finish_txb (a : Apc) : (a.finish).txb = a.txb := rfl
@[simp] theorem Apc.finish_txLen (a : Apc) : (a.finish).txLen = a.txLen := rfl
@[simp] theorem Apc.finish_rxb (a : Apc) : (a.finish).rxb = a.rxb := rfl
@[simp] theorem Apc.finish_cs (a : Apc) : (a.finish).cs = a.cs := rfl
@[simp] theorem Apc.finish_res (a : Apc) : (a.finish).res = a.res := rfl
@[simp] theorem Apc.finish_resValid (a : Apc) : (a.finish).resValid = a.resValid := rfl
@[simp] theorem Apc.finish_status (a : Apc) : (a.finish).status = .ok := rfl
@[simp] theorem Apc.finish_done (a : Apc) : (a.finish).done = true := rfl
@[simp] theorem Apc.finish_latched (a : Apc) : (a.finish).latched = a.latched := rfl

/-! ### Apc.abort -/

@[simp] theorem Apc.abort_busy (a : Apc) (e : Status) : (a.abort e).busy = false := rfl
@[simp] theorem Apc.abort_op (a : Apc) (e : Status) : (a.abort e).op = a.op := rfl
@[simp] theorem Apc.abort_aReg (a : Apc) (e : Status) : (a.abort e).aReg = a.aReg := rfl
@[simp] theorem Apc.abort_aPin (a : Apc) (e : Status) : (a.abort e).aPin = a.aPin := rfl
@[simp] theorem Apc.abort_aCmd (a : Apc) (e : Status) : (a.abort e).aCmd = a.aCmd := rfl
@[simp] theorem Apc.abort_aDat (a : Apc) (e : Status) : (a.abort e).aDat = a.aDat := rfl
@[simp] theorem Apc.abort_step (a : Apc) (e : Status) : (a.abort e).step = a.step := rfl
@[simp] theorem Apc.abort_sync (a : Apc) (e : Status) : (a.abort e).sync = a.sync := rfl
@[simp] theorem Apc.abort_pollCnt (a : Apc) (e : Status) : (a.abort e).pollCnt = a.pollCnt := rfl
@[simp] theorem Apc.abort_txb (a : Apc) (e : Status) : (a.abort e).txb = a.txb := rfl
@[simp] theorem Apc.abort_txLen (a : Apc) (e : Status) : (a.abort e).txLen = a.txLen := rfl
@[simp] theorem Apc.abort_rxb (a : Apc) (e : Status) : (a.abort e).rxb = a.rxb := rfl
@[simp] theorem Apc.abort_cs (a : Apc) (e : Status) : (a.abort e).cs = a.cs := rfl
@[simp] theorem Apc.abort_res (a : Apc) (e : Status) : (a.abort e).res = a.res := rfl
@[simp] theorem Apc.abort_resValid (a : Apc) (e : Status) : (a.abort e).resValid = a.resValid := rfl
@[simp] theorem Apc.abort_status (a : Apc) (e : Status) : (a.abort e).status = e := rfl
@[simp] theorem Apc.abort_done (a : Apc) (e : Status) : (a.abort e).done = true := rfl
@[simp] theorem Apc.abort_latched (a : Apc) (e : Status) : (a.abort e).latched = a.latched := rfl

/-! ### Apc.latch -/

@[simp] theorem Apc.latch_busy (a : Apc) (r : Request) : (a.latch r).busy = a.busy := rfl
@[simp] theorem Apc.latch_op (a : Apc) (r : Request) : (a.latch r).op = r.op := rfl
@[simp] theorem Apc.latch_aReg (a : Apc) (r : Request) : (a.latch r).aReg = r.fields.reg := rfl
@[simp] theorem Apc.latch_aPin (a : Apc) (r : Request) : (a.latch r).aPin = r.fields.pin := rfl
@[simp] theorem Apc.latch_aCmd (a : Apc) (r : Request) : (a.latch r).aCmd = r.fields.cmd := rfl
@[simp] theorem Apc.latch_aDat (a : Apc) (r : Request) : (a.latch r).aDat = r.fields.dat := rfl
@[simp] theorem Apc.latch_step (a : Apc) (r : Request) : (a.latch r).step = a.step := rfl
@[simp] theorem Apc.latch_sync (a : Apc) (r : Request) : (a.latch r).sync = a.sync := rfl
@[simp] theorem Apc.latch_pollCnt (a : Apc) (r : Request) : (a.latch r).pollCnt = a.pollCnt := rfl
@[simp] theorem Apc.latch_txb (a : Apc) (r : Request) : (a.latch r).txb = a.txb := rfl
@[simp] theorem Apc.latch_txLen (a : Apc) (r : Request) : (a.latch r).txLen = a.txLen := rfl
@[simp] theorem Apc.latch_rxb (a : Apc) (r : Request) : (a.latch r).rxb = a.rxb := rfl
@[simp] theorem Apc.latch_cs (a : Apc) (r : Request) : (a.latch r).cs = a.cs := rfl
@[simp] theorem Apc.latch_res (a : Apc) (r : Request) : (a.latch r).res = a.res := rfl
@[simp] theorem Apc.latch_resValid (a : Apc) (r : Request) : (a.latch r).resValid = false := rfl
@[simp] theorem Apc.latch_status (a : Apc) (r : Request) : (a.latch r).status = a.status := rfl
@[simp] theorem Apc.latch_done (a : Apc) (r : Request) : (a.latch r).done = false := rfl
@[simp] theorem Apc.latch_latched (a : Apc) (r : Request) : (a.latch r).latched = r := rfl

/-! ### Apc.start -/

@[simp] theorem Apc.start_busy (a : Apc) : (a.start).busy = true := rfl
@[simp] theorem Apc.start_op (a : Apc) : (a.start).op = a.op := rfl
@[simp] theorem Apc.start_aReg (a : Apc) : (a.start).aReg = a.aReg := rfl
@[simp] theorem Apc.start_aPin (a : Apc) : (a.start).aPin = a.aPin := rfl
@[simp] theorem Apc.start_aCmd (a : Apc) : (a.start).aCmd = a.aCmd := rfl
@[simp] theorem Apc.start_aDat (a : Apc) : (a.start).aDat = a.aDat := rfl
@[simp] theorem Apc.start_step (a : Apc) : (a.start).step = 0 := rfl
@[simp] theorem Apc.start_sync (a : Apc) : (a.start).sync = a.sync := rfl
@[simp] theorem Apc.start_pollCnt (a : Apc) : (a.start).pollCnt = a.pollCnt := rfl
@[simp] theorem Apc.start_txb (a : Apc) : (a.start).txb = a.txb := rfl
@[simp] theorem Apc.start_txLen (a : Apc) : (a.start).txLen = a.txLen := rfl
@[simp] theorem Apc.start_rxb (a : Apc) : (a.start).rxb = a.rxb := rfl
@[simp] theorem Apc.start_cs (a : Apc) : (a.start).cs = a.cs := rfl
@[simp] theorem Apc.start_res (a : Apc) : (a.start).res = a.res := rfl
@[simp] theorem Apc.start_resValid (a : Apc) : (a.start).resValid = a.resValid := rfl
@[simp] theorem Apc.start_status (a : Apc) : (a.start).status = a.status := rfl
@[simp] theorem Apc.start_done (a : Apc) : (a.start).done = a.done := rfl
@[simp] theorem Apc.start_latched (a : Apc) : (a.start).latched = a.latched := rfl

/-! ### Apc.refuse -/

@[simp] theorem Apc.refuse_busy (a : Apc) : (a.refuse).busy = a.busy := rfl
@[simp] theorem Apc.refuse_op (a : Apc) : (a.refuse).op = a.op := rfl
@[simp] theorem Apc.refuse_aReg (a : Apc) : (a.refuse).aReg = a.aReg := rfl
@[simp] theorem Apc.refuse_aPin (a : Apc) : (a.refuse).aPin = a.aPin := rfl
@[simp] theorem Apc.refuse_aCmd (a : Apc) : (a.refuse).aCmd = a.aCmd := rfl
@[simp] theorem Apc.refuse_aDat (a : Apc) : (a.refuse).aDat = a.aDat := rfl
@[simp] theorem Apc.refuse_step (a : Apc) : (a.refuse).step = a.step := rfl
@[simp] theorem Apc.refuse_sync (a : Apc) : (a.refuse).sync = a.sync := rfl
@[simp] theorem Apc.refuse_pollCnt (a : Apc) : (a.refuse).pollCnt = a.pollCnt := rfl
@[simp] theorem Apc.refuse_txb (a : Apc) : (a.refuse).txb = a.txb := rfl
@[simp] theorem Apc.refuse_txLen (a : Apc) : (a.refuse).txLen = a.txLen := rfl
@[simp] theorem Apc.refuse_rxb (a : Apc) : (a.refuse).rxb = a.rxb := rfl
@[simp] theorem Apc.refuse_cs (a : Apc) : (a.refuse).cs = a.cs := rfl
@[simp] theorem Apc.refuse_res (a : Apc) : (a.refuse).res = a.res := rfl
@[simp] theorem Apc.refuse_resValid (a : Apc) : (a.refuse).resValid = a.resValid := rfl
@[simp] theorem Apc.refuse_status (a : Apc) : (a.refuse).status = .illegalRequest := rfl
@[simp] theorem Apc.refuse_done (a : Apc) : (a.refuse).done = true := rfl
@[simp] theorem Apc.refuse_latched (a : Apc) : (a.refuse).latched = a.latched := rfl

/-! ### State.mapApc -/

@[simp] theorem State.mapApc_apc (s : State) (f : Apc → Apc) : (s.mapApc f).apc = f s.apc := rfl
@[simp] theorem State.mapApc_cfg (s : State) (f : Apc → Apc) : (s.mapApc f).cfg = s.cfg := rfl
@[simp] theorem State.mapApc_env (s : State) (f : Apc → Apc) : (s.mapApc f).env = s.env := rfl
@[simp] theorem State.mapApc_inbox (s : State) (f : Apc → Apc) : (s.mapApc f).inbox = s.inbox := rfl
@[simp] theorem State.mapApc_rst (s : State) (f : Apc → Apc) : (s.mapApc f).rst = s.rst := rfl
@[simp] theorem State.mapApc_trace (s : State) (f : Apc → Apc) : (s.mapApc f).trace = s.trace := rfl

/-! ### State.record -/

@[simp] theorem State.record_apc (s : State) (e : Event) : (s.record e).apc = s.apc := rfl
@[simp] theorem State.record_cfg (s : State) (e : Event) : (s.record e).cfg = s.cfg := rfl
@[simp] theorem State.record_env (s : State) (e : Event) : (s.record e).env = s.env := rfl
@[simp] theorem State.record_inbox (s : State) (e : Event) : (s.record e).inbox = s.inbox := rfl
@[simp] theorem State.record_rst (s : State) (e : Event) : (s.record e).rst = s.rst := rfl
@[simp] theorem State.record_trace (s : State) (e : Event) : (s.record e).trace = s.trace ++ [e] := rfl

/-! ### State.withEnv -/

@[simp] theorem State.withEnv_apc (s : State) (v : Env) : (s.withEnv v).apc = s.apc := rfl
@[simp] theorem State.withEnv_cfg (s : State) (v : Env) : (s.withEnv v).cfg = s.cfg := rfl
@[simp] theorem State.withEnv_env (s : State) (v : Env) : (s.withEnv v).env = v := rfl
@[simp] theorem State.withEnv_inbox (s : State) (v : Env) : (s.withEnv v).inbox = s.inbox := rfl
@[simp] theorem State.withEnv_rst (s : State) (v : Env) : (s.withEnv v).rst = s.rst := rfl
@[simp] theorem State.withEnv_trace (s : State) (v : Env) : (s.withEnv v).trace = s.trace := rfl

/-! ### State.raise -/

@[simp] theorem State.raise_apc (s : State) (e : Status) : (s.raise e).apc = s.apc.abort e := rfl
@[simp] theorem State.raise_cfg (s : State) (e : Status) : (s.raise e).cfg = s.cfg := rfl
@[simp] theorem State.raise_env (s : State) (e : Status) : (s.raise e).env = s.env := rfl
@[simp] theorem State.raise_inbox (s : State) (e : Status) : (s.raise e).inbox = s.inbox := rfl
@[simp] theorem State.raise_rst (s : State) (e : Status) : (s.raise e).rst = s.rst := rfl
@[simp] theorem State.raise_trace (s : State) (e : Status) : (s.raise e).trace = s.trace := rfl

/-! ### State.applyReset -/

@[simp] theorem State.applyReset_apc (s : State) : (s.applyReset).apc = Apc.reset := rfl
@[simp] theorem State.applyReset_cfg (s : State) : (s.applyReset).cfg = s.cfg := rfl
@[simp] theorem State.applyReset_env (s : State) : (s.applyReset).env = s.env := rfl
@[simp] theorem State.applyReset_inbox (s : State) : (s.applyReset).inbox = s.inbox := rfl
@[simp] theorem State.applyReset_rst (s : State) : (s.applyReset).rst = s.rst := rfl
@[simp] theorem State.applyReset_trace (s : State) : (s.applyReset).trace = s.trace := rfl

/-! ### State.present -/

@[simp] theorem State.present_apc (s : State) (p : Presented) : (s.present p).apc = s.apc := rfl
@[simp] theorem State.present_cfg (s : State) (p : Presented) : (s.present p).cfg = s.cfg := rfl
@[simp] theorem State.present_env (s : State) (p : Presented) : (s.present p).env = s.env := rfl
@[simp] theorem State.present_inbox (s : State) (p : Presented) : (s.present p).inbox = s.inbox ++ [p] := rfl
@[simp] theorem State.present_rst (s : State) (p : Presented) : (s.present p).rst = s.rst := rfl
@[simp] theorem State.present_trace (s : State) (p : Presented) : (s.present p).trace = s.trace := rfl

/-! ### State.driveReset -/

@[simp] theorem State.driveReset_apc (s : State) (b : Bool) : (s.driveReset b).apc = s.apc := rfl
@[simp] theorem State.driveReset_cfg (s : State) (b : Bool) : (s.driveReset b).cfg = s.cfg := rfl
@[simp] theorem State.driveReset_env (s : State) (b : Bool) : (s.driveReset b).env = s.env := rfl
@[simp] theorem State.driveReset_inbox (s : State) (b : Bool) : (s.driveReset b).inbox = s.inbox := rfl
@[simp] theorem State.driveReset_rst (s : State) (b : Bool) : (s.driveReset b).rst = b := rfl
@[simp] theorem State.driveReset_trace (s : State) (b : Bool) : (s.driveReset b).trace = s.trace := rfl

end Sys2Proof.Machine
end

