-- ==== Sys2Proof/Laws/Ops.lean ====
section
/-! SUPPORT. For each shared operation over the transport port, once, everything it can do; then the same for one micro-step. -/

namespace Sys2Proof.Machine

/-! ## The parts of a request in the latches -/

@[simp] theorem programOf_congr_latched {c : Cfg} {a b : Apc} (h : a.latched = b.latched) :
    programOf c a = programOf c b := by
  have hop : a.op = b.op := congrArg Request.op h
  have hf : a.latched.fields = b.latched.fields := congrArg Request.fields h
  have hreg : a.aReg = b.aReg := congrArg Fields.reg hf
  have hpin : a.aPin = b.aPin := congrArg Fields.pin hf
  have hcmd : a.aCmd = b.aCmd := congrArg Fields.cmd hf
  have hdat : a.aDat = b.aDat := congrArg Fields.dat hf
  simp only [programOf, progWreg, progRreg, progSelch, progSelchValid, progAcq, progAcqValid, progConfig, progCmd,
    Apc.v0, Apc.v1, Apc.v2, Apc.v3, hop, hreg, hpin, hcmd, hdat]

/-! ## What each operation of the port can do -/

theorem selectLine_cases {l : SelLevel} {s t : State} (h : selectLine l s = some t) :
    (∃ rest, s.env.sel = .ok :: rest ∧
      t = { s with apc := (s.apc.setCs l).advance, env := { s.env with sel := rest },
                   trace := s.trace ++ [.sel l .ok] }) ∨
    (∃ rest, s.env.sel = .err :: rest ∧
      t = { s with apc := s.apc.abort .transportError, env := { s.env with sel := rest },
                   trace := s.trace ++ [.sel l .err] }) := by
  unfold selectLine at h
  split at h
  · cases h
  · rename_i a rest he
    cases a
    · exact .inl ⟨rest, he, (Option.some.inj h).symm⟩
    · exact .inr ⟨rest, he, (Option.some.inj h).symm⟩

theorem transmit_cases {frame : List Byte} {s t : State} (h : transmit frame s = some t) :
    (∃ rest, s.env.tx = .ok frame.length :: rest ∧
      t = { s with apc := (s.apc.loadTx frame).advance, env := { s.env with tx := rest },
                   trace := s.trace ++ [.tx frame (.ok frame.length)] }) ∨
    (∃ a rest, a ≠ .ok frame.length ∧ s.env.tx = a :: rest ∧
      t = { s with apc := (s.apc.loadTx frame).abort .transportError, env := { s.env with tx := rest },
                   trace := s.trace ++ [.tx frame a] }) := by
  unfold transmit at h
  split at h
  · cases h
  · rename_i a rest he
    cases a with
    | ok n =>
      by_cases hn : n = frame.length
      · subst hn
        simp only [if_true] at h
        exact .inl ⟨rest, he, (Option.some.inj h).symm⟩
      · simp only [hn, if_false] at h
        refine .inr ⟨.ok n, rest, by simpa using hn, he, ?_⟩
        exact (Option.some.inj h).symm
    | err => exact .inr ⟨.err, rest, by simp, he, (Option.some.inj h).symm⟩

theorem receive_cases {n : Nat} {s t : State} (h : receive n s = some t) :
    (∃ bytes rest, bytes.length = n ∧ s.env.rx = .ok bytes :: rest ∧
      t = { s with apc := (s.apc.loadRx bytes).advance, env := { s.env with rx := rest },
                   trace := s.trace ++ [.rx n (.ok bytes)] }) ∨
    (∃ a rest, (∀ bytes, a = .ok bytes → bytes.length ≠ n) ∧ s.env.rx = a :: rest ∧
      t = { s with apc := s.apc.abort .transportError, env := { s.env with rx := rest },
                   trace := s.trace ++ [.rx n a] }) := by
  unfold receive at h
  split at h
  · cases h
  · rename_i a rest he
    cases a with
    | ok bytes =>
      by_cases hn : bytes.length = n
      · simp only [hn, if_true] at h
        exact .inl ⟨bytes, rest, hn, he, (Option.some.inj h).symm⟩
      · simp only [hn, if_false] at h
        refine .inr ⟨.ok bytes, rest, fun b hb => by cases hb; exact hn, he, ?_⟩
        exact (Option.some.inj h).symm
    | err => exact .inr ⟨.err, rest, by simp, he, (Option.some.inj h).symm⟩

/-- The five ends of a `WPOLL` micro-step: settled by the ready level (R173), not ready (R172), settled by the policy
TreatAsReady or aborted on a pin error (R175), timed out (R174). -/
theorem poll_cases {tp : TimeoutPolicy} {s t : State} (h : poll tp s = some t) :
    (s.apc.pollCnt < s.cfg.pollBound ∧ ∃ a rest, s.env.pin = a :: rest ∧
      ((a = .ok s.cfg.readyLevel ∨ (a = .err ∧ s.cfg.onPinReadError = .treatAsReady)) ∧
        t = { s with apc := s.apc.countRead.settle.advance, env := { s.env with pin := rest },
                     trace := s.trace ++ [.pin s.cfg.drdyPinId a] } ∨
       (∃ l, a = .ok l ∧ l ≠ s.cfg.readyLevel) ∧
        t = { s with apc := s.apc.countRead, env := { s.env with pin := rest },
                     trace := s.trace ++ [.pin s.cfg.drdyPinId a] } ∨
       (a = .err ∧ s.cfg.onPinReadError = .propagateError) ∧
        t = { s with apc := s.apc.countRead.abort .transportError, env := { s.env with pin := rest },
                     trace := s.trace ++ [.pin s.cfg.drdyPinId a] })) ∨
    (¬ s.apc.pollCnt < s.cfg.pollBound ∧
      (tp = .propagate ∧ t = s.raise .timeoutError ∨ tp = .suppress ∧ t = s.mapApc Apc.advance)) := by
  unfold poll at h
  split at h
  · rename_i hb
    refine .inl ⟨hb, ?_⟩
    split at h
    · cases h
    · rename_i a rest he
      refine ⟨a, rest, he, ?_⟩
      have h' := (Option.some.inj h).symm
      cases a with
      | ok l =>
        by_cases hl : l = s.cfg.readyLevel
        · subst hl
          exact .inl ⟨.inl rfl, by rw [h']; simp [pollAnswered, settleWait]; rfl⟩
        · refine .inr (.inl ⟨⟨l, rfl, hl⟩, ?_⟩)
          rw [h']; simp [pollAnswered, hl]; rfl
      | err =>
        cases hp : s.cfg.onPinReadError with
        | propagateError => exact .inr (.inr ⟨⟨rfl, rfl⟩, by rw [h']; simp [pollAnswered, hp]; rfl⟩)
        | treatAsReady => exact .inl ⟨.inr ⟨rfl, rfl⟩, by rw [h']; simp [pollAnswered, hp, settleWait]; rfl⟩
  · rename_i hb
    refine .inr ⟨hb, ?_⟩
    have h' := (Option.some.inj h).symm
    cases tp with
    | propagate => exact .inl ⟨rfl, h'⟩
    | suppress => exact .inr ⟨rfl, h'⟩

/-! ## One micro-step -/

theorem microStep_some {s t : State} (h : microStep s = some t) :
    s.apc.busy = true ∧ ∃ m, currentOp s = some m ∧ runMicroOp m s = some t := by
  unfold microStep at h
  split at h
  · rename_i hb
    exact ⟨hb, Option.bind_eq_some_iff.1 h⟩
  · cases h

theorem microStep_of {s : State} {m : MicroOp} (hb : s.apc.busy = true) (hm : currentOp s = some m) :
    microStep s = runMicroOp m s := by
  simp [microStep, hb, hm]

theorem microStep_idle {s : State} (hb : s.apc.busy = false) : microStep s = none := by
  simp [microStep, hb]

/-- How a micro-step leaves the sequencer: the micro-op succeeded, or it is a poll that read not-ready, or it raised an
error, or it was END. -/
inductive Progress (s t : State) : Prop where
  | advanced (hs : t.apc.step = s.apc.step + 1) (hb : t.apc.busy = s.apc.busy) (hd : t.apc.done = s.apc.done)
      (hst : t.apc.status = s.apc.status) (hm : currentOp s ≠ some .finish)
  | stayed (hs : t.apc.step = s.apc.step) (hb : t.apc.busy = s.apc.busy) (hd : t.apc.done = s.apc.done)
      (hst : t.apc.status = s.apc.status) (hp : ∃ tp, currentOp s = some (.wpoll tp))
      (hpin : t.env.pin.length + 1 = s.env.pin.length)
  | aborted (hs : t.apc.step = s.apc.step) (hb : t.apc.busy = false) (hd : t.apc.done = true)
      (hst : t.apc.status = .transportError ∨ t.apc.status = .timeoutError)
  | finished (hs : t.apc.step = s.apc.step) (hb : t.apc.busy = false) (hd : t.apc.done = true)
      (hst : t.apc.status = .ok) (hm : currentOp s = some .finish)

/-- What a micro-step never touches: the constants, the latches, the inputs; what it takes and what it appends. -/
structure MicroFrame (s t : State) : Prop where
  cfg : t.cfg = s.cfg
  inbox : t.inbox = s.inbox
  rst : t.rst = s.rst
  latched : t.apc.latched = s.apc.latched
  pin : t.env.pin.length ≤ s.env.pin.length
  trace : ∃ es, t.trace = s.trace ++ es ∧ es.length ≤ 1

theorem runMicroOp_spec {m : MicroOp} {s t : State} (hm : currentOp s = some m) (h : runMicroOp m s = some t) :
    MicroFrame s t ∧ Progress s t := by
  cases m with
  | wenter =>
    cases h
    exact ⟨⟨rfl, rfl, rfl, rfl, le_refl _, [], by simp [enterWait]⟩, .advanced rfl rfl rfl rfl (by simp [hm])⟩
  | wpoll tp =>
    rcases poll_cases h with ⟨_, a, rest, he, h | h | h⟩ | ⟨_, h | h⟩
    · obtain ⟨_, rfl⟩ := h
      exact ⟨⟨rfl, rfl, rfl, rfl, by simp [he], _, rfl, by simp⟩, .advanced rfl rfl rfl rfl (by simp [hm])⟩
    · obtain ⟨_, rfl⟩ := h
      exact ⟨⟨rfl, rfl, rfl, rfl, by simp [he], _, rfl, by simp⟩, .stayed rfl rfl rfl rfl ⟨tp, hm⟩ (by simp [he])⟩
    · obtain ⟨_, rfl⟩ := h
      exact ⟨⟨rfl, rfl, rfl, rfl, by simp [he], _, rfl, by simp⟩, .aborted rfl rfl rfl (.inl rfl)⟩
    · obtain ⟨_, rfl⟩ := h
      exact ⟨⟨rfl, rfl, rfl, rfl, le_refl _, [], by simp⟩, .aborted rfl rfl rfl (.inr rfl)⟩
    · obtain ⟨_, rfl⟩ := h
      exact ⟨⟨rfl, rfl, rfl, rfl, le_refl _, [], by simp⟩, .advanced rfl rfl rfl rfl (by simp [hm])⟩
  | selA =>
    rcases selectLine_cases h with ⟨_, _, rfl⟩ | ⟨_, _, rfl⟩
    · exact ⟨⟨rfl, rfl, rfl, rfl, le_refl _, _, rfl, by simp⟩, .advanced rfl rfl rfl rfl (by simp [hm])⟩
    · exact ⟨⟨rfl, rfl, rfl, rfl, le_refl _, _, rfl, by simp⟩, .aborted rfl rfl rfl (.inl rfl)⟩
  | selD =>
    rcases selectLine_cases h with ⟨_, _, rfl⟩ | ⟨_, _, rfl⟩
    · exact ⟨⟨rfl, rfl, rfl, rfl, le_refl _, _, rfl, by simp⟩, .advanced rfl rfl rfl rfl (by simp [hm])⟩
    · exact ⟨⟨rfl, rfl, rfl, rfl, le_refl _, _, rfl, by simp⟩, .aborted rfl rfl rfl (.inl rfl)⟩
  | tx frame =>
    rcases transmit_cases h with ⟨_, _, rfl⟩ | ⟨_, _, _, _, rfl⟩
    · exact ⟨⟨rfl, rfl, rfl, rfl, le_refl _, _, rfl, by simp⟩, .advanced rfl rfl rfl rfl (by simp [hm])⟩
    · exact ⟨⟨rfl, rfl, rfl, rfl, le_refl _, _, rfl, by simp⟩, .aborted rfl rfl rfl (.inl rfl)⟩
  | rx n =>
    rcases receive_cases h with ⟨_, _, _, _, rfl⟩ | ⟨_, _, _, _, rfl⟩
    · exact ⟨⟨rfl, rfl, rfl, rfl, le_refl _, _, rfl, by simp⟩, .advanced rfl rfl rfl rfl (by simp [hm])⟩
    · exact ⟨⟨rfl, rfl, rfl, rfl, le_refl _, _, rfl, by simp⟩, .aborted rfl rfl rfl (.inl rfl)⟩
  | delay =>
    cases h
    exact ⟨⟨rfl, rfl, rfl, rfl, le_refl _, _, rfl, by simp⟩, .advanced rfl rfl rfl rfl (by simp [hm])⟩
  | setres k =>
    cases h
    exact ⟨⟨rfl, rfl, rfl, rfl, le_refl _, [], by simp [setResult]⟩, .advanced rfl rfl rfl rfl (by simp [hm])⟩
  | finish =>
    cases h
    exact ⟨⟨rfl, rfl, rfl, rfl, le_refl _, [], by simp [finishOp]⟩, .finished rfl rfl rfl rfl hm⟩

/-- Everything one micro-step can do to the sequencer. -/
theorem microStep_spec {s t : State} (h : microStep s = some t) :
    s.apc.busy = true ∧ MicroFrame s t ∧ Progress s t := by
  obtain ⟨hb, m, hm, hr⟩ := microStep_some h
  exact ⟨hb, runMicroOp_spec hm hr⟩

theorem MicroFrame.program {s t : State} (h : MicroFrame s t) : programOf t.cfg t.apc = programOf s.cfg s.apc := by
  rw [h.cfg]; exact programOf_congr_latched h.latched

end Sys2Proof.Machine
end

