-- ==== Sys2Proof/Laws/Program.lean ====
section
/-! SUPPORT. The shape of the micro-programs: which lists there are, that END is last and only last (R22), how long they are (R201). -/

namespace Sys2Proof.Machine

/-- The ten micro-programs, and none for an unassigned code. -/
theorem programOf_cases (c : Cfg) (a : Apc) :
    (a.op = 1#4 ∧ programOf c a = progWreg c a) ∨
    (a.op = 2#4 ∧ programOf c a = progRreg a) ∨
    (a.op = 3#4 ∧ programOf c a = progRdid) ∨
    (a.op = 4#4 ∧ programOf c a = progWaitrdy) ∨
    (a.op = 5#4 ∧ channelOutOfRange a.aPin = false ∧ programOf c a = progSelchValid c a) ∨
    (a.op = 5#4 ∧ channelOutOfRange a.aPin = true ∧ programOf c a = progSelchInvalid c) ∨
    (a.op = 6#4 ∧ channelOutOfRange a.aPin = false ∧ programOf c a = progAcqValid c a) ∨
    (a.op = 6#4 ∧ channelOutOfRange a.aPin = true ∧ programOf c a = progAcqInvalid c) ∨
    (a.op = 7#4 ∧ programOf c a = progConfig c a) ∨
    (a.op = 8#4 ∧ programOf c a = progCmd a) ∨
    (requestLegal a.latched = false ∧ programOf c a = []) := by
  have key : ∀ o : BitVec 4, o = 1#4 ∨ o = 2#4 ∨ o = 3#4 ∨ o = 4#4 ∨ o = 5#4 ∨ o = 6#4 ∨ o = 7#4 ∨ o = 8#4 ∨
      (o.toNat = 0 ∨ 9 ≤ o.toNat) := by decide
  rcases key a.op with h | h | h | h | h | h | h | h | h
  · simp [programOf, h]
  · simp [programOf, h]
  · simp [programOf, h]
  · simp [programOf, h]
  · by_cases hp : channelOutOfRange a.aPin = true <;> simp [programOf, progSelch, h, hp]
  · by_cases hp : channelOutOfRange a.aPin = true <;> simp [programOf, progAcq, h, hp]
  · simp [programOf, h]
  · simp [programOf, h]
  · have hd : ∀ o : BitVec 4, (o.toNat = 0 ∨ 9 ≤ o.toNat) → ∀ f : Fields, requestLegal ⟨o, f⟩ = false := by
      intro o ho f
      have : o.toNat < 16 := o.isLt
      unfold requestLegal
      rcases ho with ho | ho
      · simp [ho]
      · split <;> simp_all
    have hl := hd a.op h ⟨a.aReg, a.aPin, a.aCmd, a.aDat⟩
    have hn : programOf c a = [] := by
      unfold programOf
      rcases h with ho | ho
      · simp [ho]
      · split <;> first | rfl | omega
    simp only [hn]
    right; right; right; right; right; right; right; right; right; right
    exact ⟨hl, trivial⟩

/-- END is the last micro-op of every micro-program and stands nowhere else (R22); no micro-program is longer than 18
(R201). -/
theorem programOf_ends (c : Cfg) (a : Apc) (h : programOf c a ≠ []) :
    ∃ body, programOf c a = body ++ [.finish] ∧ MicroOp.finish ∉ body ∧ body.length ≤ 17 := by
  refine ⟨(programOf c a).dropLast, ?_⟩
  rcases programOf_cases c a with h' | h' | h' | h' | h' | h' | h' | h' | h' | h' | h'
  · simp [h'.2, progWreg]
  · simp [h'.2, progRreg]
  · simp [h'.2, progRdid]
  · simp [h'.2, progWaitrdy]
  · simp [h'.2.2, progSelchValid]
  · simp [h'.2.2, progSelchInvalid]
  · simp [h'.2.2, progAcqValid]
  · simp [h'.2.2, progAcqInvalid]
  · simp [h'.2, progConfig]
  · simp [h'.2, progCmd]
  · exact absurd h'.2 h

theorem programOf_length_le (c : Cfg) (a : Apc) : (programOf c a).length ≤ 18 := by
  by_cases h : programOf c a = []
  · simp [h]
  · obtain ⟨body, hb, -, hl⟩ := programOf_ends c a h
    simp [hb]; omega

/-- A legal request has a micro-program. -/
theorem programOf_ne_nil {c : Cfg} {a : Apc} (h : requestLegal a.latched = true) : programOf c a ≠ [] := by
  rcases programOf_cases c a with h' | h' | h' | h' | h' | h' | h' | h' | h' | h' | h'
  · simp [h'.2, progWreg]
  · simp [h'.2, progRreg]
  · simp [h'.2, progRdid]
  · simp [h'.2, progWaitrdy]
  · simp [h'.2.2, progSelchValid]
  · simp [h'.2.2, progSelchInvalid]
  · simp [h'.2.2, progAcqValid]
  · simp [h'.2.2, progAcqInvalid]
  · simp [h'.2, progConfig]
  · simp [h'.2, progCmd]
  · simp [h] at h'

/-- The micro-ops not yet done, the current one first. -/
def opsLeft (s : State) : List MicroOp := (programOf s.cfg s.apc).drop s.apc.step

theorem currentOp_of_left {s : State} {m : MicroOp} {r : List MicroOp} (h : opsLeft s = m :: r) :
    currentOp s = some m := by
  have := congrArg List.head? h
  simpa [opsLeft, currentOp, List.head?_drop] using this

/-- The micro-ops left after `n` of them, whatever else changed. -/
theorem opsLeft_advance {s t : State} {n : Nat} (hc : t.cfg = s.cfg) (hl : t.apc.latched = s.apc.latched)
    (hs : t.apc.step = s.apc.step + n) : opsLeft t = (opsLeft s).drop n := by
  rw [opsLeft, opsLeft, hc, programOf_congr_latched hl, hs, List.drop_drop]

/-- A micro-op other than END is followed by another one. -/
theorem step_lt_of_not_finish {s : State} {m : MicroOp} (hm : currentOp s = some m) (hf : m ≠ .finish) :
    s.apc.step + 1 < (programOf s.cfg s.apc).length := by
  have hlt : s.apc.step < (programOf s.cfg s.apc).length := by
    have := List.getElem?_eq_some_iff.1 hm
    exact this.1
  have hne : programOf s.cfg s.apc ≠ [] := by intro h0; simp [h0] at hlt
  obtain ⟨body, hb, -, -⟩ := programOf_ends _ _ hne
  rw [hb] at hlt ⊢
  simp only [List.length_append, List.length_singleton] at hlt ⊢
  by_contra hc
  have he : s.apc.step = body.length := by omega
  unfold currentOp at hm
  rw [hb, he, List.getElem?_append_right (le_refl _)] at hm
  simp at hm
  exact hf hm.symm

/-- END is the last micro-op. -/
theorem step_of_finish {s : State} (hm : currentOp s = some .finish) :
    s.apc.step + 1 = (programOf s.cfg s.apc).length := by
  have hlt := (List.getElem?_eq_some_iff.1 hm).1
  have hne : programOf s.cfg s.apc ≠ [] := by intro h0; simp [h0] at hlt
  obtain ⟨body, hb, hn, -⟩ := programOf_ends _ _ hne
  unfold currentOp at hm
  rw [hb] at hm hlt ⊢
  simp only [List.length_append, List.length_singleton] at hlt ⊢
  by_contra hc
  have hl : s.apc.step < body.length := by omega
  rw [List.getElem?_append_left hl] at hm
  exact hn (List.mem_of_getElem? hm)

end Sys2Proof.Machine
end

