-- ==== Sys2Proof/Laws/Run.lean ====
section
/-! SUPPORT. Running an operation: the induction over micro-steps packaged once, enough fuel, and the pieces operations are made of (the wait, the bracket, the read bracket). -/

namespace Sys2Proof.Machine

/-! ## Induction over micro-steps -/

theorem runMicro_some {n : Nat} {s t : State} (h : microStep s = some t) : runMicro (n + 1) s = runMicro n t := by
  simp [runMicro, h]

theorem runMicro_quiet {n : Nat} {s : State} (h : microStep s = none) : runMicro n s = s := by
  cases n <;> simp [runMicro, h]

/-- What every micro-step keeps, every run keeps. -/
theorem runMicro_keeps {P : State → Prop} (hstep : ∀ s t, P s → microStep s = some t → P t) :
    ∀ n s, P s → P (runMicro n s) := by
  intro n
  induction n with
  | zero => intro s h; exact h
  | succ n ih =>
    intro s h
    cases hm : microStep s with
    | none => rw [runMicro_quiet hm]; exact h
    | some t => rw [runMicro_some hm]; exact ih t (hstep s t h hm)

/-- What relates a state to its successor and composes relates the two ends of a run. -/
theorem runMicro_rel {R : State → State → Prop} (hrefl : ∀ s, R s s)
    (hstep : ∀ s t u, R s t → microStep t = some u → R s u) (n : Nat) (s : State) : R s (runMicro n s) :=
  runMicro_keeps (P := R s) (fun t u ht hu => hstep s t u ht hu) n s (hrefl s)

/-! ## Enough fuel -/

/-- What a run can still do: the micro-ops left and the readiness answers left. -/
def remaining (s : State) : Nat :=
  if s.apc.busy then (programOf s.cfg s.apc).length - s.apc.step + s.env.pin.length else 0

theorem microStep_remaining {s t : State} (h : microStep s = some t) : remaining t < remaining s := by
  obtain ⟨hb, m, hm, hr⟩ := microStep_some h
  have hlt : s.apc.step < (programOf s.cfg s.apc).length := (List.getElem?_eq_some_iff.1 hm).1
  obtain ⟨hf, hp⟩ := runMicroOp_spec hm hr
  have hprog := hf.program
  have hpin := hf.pin
  cases hp with
  | advanced hs hb' _ _ _ => simp only [remaining, hb, hb', hprog, hs, if_true]; omega
  | stayed hs hb' _ _ _ hpin' => simp only [remaining, hb, hb', hprog, hs, if_true]; omega
  | aborted _ hb' _ _ => simp only [remaining, hb, hb', if_true]; simp; omega
  | finished _ hb' _ _ _ => simp only [remaining, hb, hb', if_true]; simp; omega

theorem runMicro_is_quiet : ∀ n s, remaining s ≤ n → quiet (runMicro n s) := by
  intro n
  induction n with
  | zero =>
    intro s h
    cases hm : microStep s with
    | none => rw [runMicro_quiet hm]; exact hm
    | some t => have := microStep_remaining hm; omega
  | succ n ih =>
    intro s h
    cases hm : microStep s with
    | none => rw [runMicro_quiet hm]; exact hm
    | some t =>
      rw [runMicro_some hm]
      have := microStep_remaining hm
      exact ih t (by omega)

theorem remaining_le_fuel (s : State) : remaining s ≤ opFuel s := by
  have := programOf_length_le s.cfg s.apc
  unfold remaining opFuel
  split <;> omega

/-- An operation is run until no micro-step can be taken. -/
theorem runOp_quiet (s : State) : quiet (runOp s) := runMicro_is_quiet _ _ (remaining_le_fuel s)

/-! ## Runs that lead from one state to another -/

/-- The run from `s` passes through `t`. -/
def Leads (s t : State) : Prop := ∃ n, ∀ k, runMicro (n + k) s = runMicro k t

theorem Leads.refl (s : State) : Leads s s := ⟨0, fun k => by rw [Nat.zero_add]⟩

theorem Leads.trans {s t u : State} (h1 : Leads s t) (h2 : Leads t u) : Leads s u := by
  obtain ⟨n, hn⟩ := h1
  obtain ⟨m, hm⟩ := h2
  exact ⟨n + m, fun k => by rw [Nat.add_assoc, hn, hm]⟩

theorem Leads.one {s t : State} (h : microStep s = some t) : Leads s t :=
  ⟨1, fun k => by rw [Nat.add_comm]; exact runMicro_some h⟩

theorem runMicro_add (n k : Nat) : ∀ s, runMicro (n + k) s = runMicro k (runMicro n s) := by
  induction n with
  | zero => intro s; rw [Nat.zero_add]; rfl
  | succ n ih =>
    intro s
    cases hm : microStep s with
    | none => rw [runMicro_quiet hm, runMicro_quiet hm, runMicro_quiet hm]
    | some t => rw [Nat.add_right_comm, runMicro_some hm, runMicro_some hm]; exact ih t

/-- A run that passes through a quiet state ends there. -/
theorem Leads.runOp_eq {s t : State} (h : Leads s t) (hq : microStep t = none) : runOp s = t := by
  obtain ⟨n, hn⟩ := h
  have h1 : runMicro (opFuel s + n) s = runOp s := by
    rw [runMicro_add]; exact runMicro_quiet (runOp_quiet s)
  rw [← h1, Nat.add_comm, hn, runMicro_quiet hq]

/-- A run that passes through `t` ends where the run from `t` ends. -/
theorem Leads.runOp_trans {s t : State} (h : Leads s t) : runOp s = runOp t :=
  (h.trans ⟨opFuel t, fun k => by rw [runMicro_add]; rfl⟩).runOp_eq (runOp_quiet t)

/-! ## Single micro-ops in a run -/

theorem microStep_left {s : State} {m : MicroOp} {r : List MicroOp} (hb : s.apc.busy = true) (hl : opsLeft s = m :: r) :
    microStep s = runMicroOp m s := microStep_of hb (currentOp_of_left hl)

/-- END (R31). -/
theorem leads_finish {s : State} (hb : s.apc.busy = true) (hl : opsLeft s = [.finish]) :
    Leads s { s with apc := { s.apc with status := .ok, done := true, busy := false } } :=
  .one (microStep_left hb hl)

/-- SETRES (R71). -/
theorem leads_setres {s : State} {k : ResultKind} {r : List MicroOp} (hb : s.apc.busy = true)
    (hl : opsLeft s = .setres k :: r) :
    Leads s { s with apc := { s.apc with
      res := resultOf k s.apc.rxb, resValid := true, step := s.apc.step + 1 } } :=
  .one (microStep_left hb hl)

/-- DELAY (R70). -/
theorem leads_delay {s : State} {r : List MicroOp} (hb : s.apc.busy = true) (hl : opsLeft s = .delay :: r) :
    Leads s { s with apc := { s.apc with step := s.apc.step + 1 }, trace := s.trace ++ [.delay] } :=
  .one (microStep_left hb hl)

/-- SEL_A answered Ok (R67). -/
theorem leads_selA {s : State} {r : List MicroOp} {sel : List SelAnswer} (hb : s.apc.busy = true)
    (hl : opsLeft s = .selA :: r) (hsel : s.env.sel = .ok :: sel) :
    Leads s { s with
      apc := { s.apc with step := s.apc.step + 1, cs := .asserted }
      env := { s.env with sel := sel }
      trace := s.trace ++ [.sel .asserted .ok] } :=
  .one (by rw [microStep_left hb hl]; simp only [runMicroOp, selectLine, hsel]; rfl)

/-- SEL_D answered Ok (R67). -/
theorem leads_selD {s : State} {r : List MicroOp} {sel : List SelAnswer} (hb : s.apc.busy = true)
    (hl : opsLeft s = .selD :: r) (hsel : s.env.sel = .ok :: sel) :
    Leads s { s with
      apc := { s.apc with step := s.apc.step + 1, cs := .deasserted }
      env := { s.env with sel := sel }
      trace := s.trace ++ [.sel .deasserted .ok] } :=
  .one (by rw [microStep_left hb hl]; simp only [runMicroOp, selectLine, hsel]; rfl)

/-- TX answered Ok with the whole length (R68). -/
theorem leads_tx {s : State} {fr : List Byte} {r : List MicroOp} {tx : List TxAnswer} (hb : s.apc.busy = true)
    (hl : opsLeft s = .tx fr :: r) (htx : s.env.tx = .ok fr.length :: tx) :
    Leads s { s with
      apc := { s.apc with
        step := s.apc.step + 1, txb := s.apc.txb.load fr, txLen := BitVec.ofNat 3 fr.length }
      env := { s.env with tx := tx }
      trace := s.trace ++ [.tx fr (.ok fr.length)] } :=
  .one (by rw [microStep_left hb hl]; simp only [runMicroOp, transmit, htx, if_true]; rfl)

/-- RX answered Ok with the whole length (R69). -/
theorem leads_rx {s : State} {reply : List Byte} {r : List MicroOp} {rx : List RxAnswer} (hb : s.apc.busy = true)
    (hl : opsLeft s = .rx reply.length :: r) (hrx : s.env.rx = .ok reply :: rx) :
    Leads s { s with
      apc := { s.apc with step := s.apc.step + 1, rxb := s.apc.rxb.load reply }
      env := { s.env with rx := rx }
      trace := s.trace ++ [.rx reply.length (.ok reply)] } :=
  .one (by rw [microStep_left hb hl]; simp only [runMicroOp, receive, hrx, if_true]; rfl)

/-- `opsLeft_advance` against a list that is known. -/
theorem opsLeft_after {s t : State} {l r : List MicroOp} (n : Nat) (hl : opsLeft s = l) (hr : l.drop n = r)
    (hc : t.cfg = s.cfg) (hlat : t.apc.latched = s.apc.latched) (hs : t.apc.step = s.apc.step + n) :
    opsLeft t = r := by
  rw [opsLeft_advance hc hlat hs, hl, hr]

/-! ## Brackets and waits in a run -/

/-- A bracket that carries one frame, every call answered Ok (R66 to R68). -/
theorem leads_bracket {s : State} {fr : List Byte} {r : List MicroOp} {sel : List SelAnswer} {tx : List TxAnswer}
    (hb : s.apc.busy = true) (hl : opsLeft s = .selA :: .tx fr :: .selD :: r)
    (hsel : s.env.sel = .ok :: .ok :: sel) (htx : s.env.tx = .ok fr.length :: tx) :
    Leads s { s with
      apc := { s.apc with
        step := s.apc.step + 3, cs := .deasserted, txb := s.apc.txb.load fr, txLen := BitVec.ofNat 3 fr.length }
      env := { s.env with sel := sel, tx := tx }
      trace := s.trace ++ okBracket fr } := by
  refine (leads_selA hb hl hsel).trans ?_
  refine Leads.trans (leads_tx hb (opsLeft_after 1 hl rfl rfl rfl rfl) htx) ?_
  have h3 := fun (t : State) (hb : t.apc.busy = true) hl => leads_selD (s := t) (r := r) (sel := sel) hb hl
  refine Eq.subst (motive := Leads _) ?_ (h3 _ hb (opsLeft_after 2 hl rfl rfl rfl rfl) rfl)
  simp [okBracket]

/-- A bracket that carries one frame and the read of its reply, every call answered Ok (R66 to R69). -/
theorem leads_readBracket {s : State} {fr reply : List Byte} {r : List MicroOp} {sel : List SelAnswer}
    {tx : List TxAnswer} {rx : List RxAnswer}
    (hb : s.apc.busy = true) (hl : opsLeft s = .selA :: .tx fr :: .rx reply.length :: .selD :: r)
    (hsel : s.env.sel = .ok :: .ok :: sel) (htx : s.env.tx = .ok fr.length :: tx) (hrx : s.env.rx = .ok reply :: rx) :
    Leads s { s with
      apc := { s.apc with
        step := s.apc.step + 4, cs := .deasserted, txb := s.apc.txb.load fr, txLen := BitVec.ofNat 3 fr.length,
        rxb := s.apc.rxb.load reply }
      env := { s.env with sel := sel, tx := tx, rx := rx }
      trace := s.trace ++ okReadBracket fr reply } := by
  refine (leads_selA hb hl hsel).trans ?_
  refine Leads.trans (leads_tx hb (opsLeft_after 1 hl rfl rfl rfl rfl) htx) ?_
  refine Leads.trans (leads_rx hb (opsLeft_after 2 hl rfl rfl rfl rfl) hrx) ?_
  have h3 := fun (t : State) (hb : t.apc.busy = true) hl => leads_selD (s := t) (r := r) (sel := sel) hb hl
  refine Eq.subst (motive := Leads _) ?_ (h3 _ hb (opsLeft_after 3 hl rfl rfl rfl rfl) rfl)
  simp [okReadBracket]

/-- WENTER (R171). -/
theorem leads_wenter {s : State} {r : List MicroOp} (hb : s.apc.busy = true) (hl : opsLeft s = .wenter :: r) :
    Leads s { s with apc := { s.apc with step := s.apc.step + 1, sync := .polling, pollCnt := 0#32 } } :=
  .one (microStep_left hb hl)

theorem Level.other_ne (l : Level) : l.other ≠ l := by cases l <;> decide

/-- `j` reads that answer not-ready, below the bound (R172). -/
theorem leads_notReady {tp : TimeoutPolicy} {r : List MicroOp} (j : Nat) :
    ∀ {s : State} {rest : List PinAnswer}, s.apc.busy = true → opsLeft s = .wpoll tp :: r →
    s.env.pin = List.replicate j (.ok s.cfg.notReadyLevel) ++ rest →
    s.apc.pollCnt.toNat + j ≤ s.cfg.pollBound.toNat →
    Leads s { s with
      apc := { s.apc with pollCnt := s.apc.pollCnt + BitVec.ofNat 32 j }
      env := { s.env with pin := rest }
      trace := s.trace ++ notReadyReads s.cfg j } := by
  induction j with
  | zero =>
    intro s rest _ _ hpin _
    have : s.env.pin = rest := by simpa using hpin
    subst this
    simpa [notReadyReads] using Leads.refl s
  | succ j ih =>
    intro s rest hb hl hpin hlt
    have hbound : s.apc.pollCnt < s.cfg.pollBound := by rw [BitVec.lt_def]; omega
    have hpin' : s.env.pin = .ok s.cfg.notReadyLevel :: (List.replicate j (.ok s.cfg.notReadyLevel) ++ rest) := by
      rw [hpin, List.replicate_succ]; rfl
    have h1 : microStep s = some { s with
        apc := { s.apc with pollCnt := s.apc.pollCnt + 1#32 }
        env := { s.env with pin := List.replicate j (.ok s.cfg.notReadyLevel) ++ rest }
        trace := s.trace ++ [.pin s.cfg.drdyPinId (.ok s.cfg.notReadyLevel)] } := by
      rw [microStep_left hb hl]
      simp only [runMicroOp, poll, hbound, if_true, hpin', pollAnswered, State.mapApc_cfg, State.record_cfg,
        State.withEnv_cfg, Cfg.notReadyLevel, Level.other_ne, if_false]
      rfl
    refine (Leads.one h1).trans ?_
    have hadd : (s.apc.pollCnt + 1#32).toNat = s.apc.pollCnt.toNat + 1 := by
      have := s.cfg.pollBound.isLt
      rw [BitVec.toNat_add]; simp; omega
    have h2 := ih (s := { s with
        apc := { s.apc with pollCnt := s.apc.pollCnt + 1#32 }
        env := { s.env with pin := List.replicate j (.ok s.cfg.notReadyLevel) ++ rest }
        trace := s.trace ++ [.pin s.cfg.drdyPinId (.ok s.cfg.notReadyLevel)] }) (rest := rest) hb
        (opsLeft_after 0 hl rfl rfl rfl rfl) rfl (by simp only [hadd]; omega)
    refine Eq.subst (motive := Leads _) ?_ h2
    have hc : s.apc.pollCnt + 1#32 + BitVec.ofNat 32 j = s.apc.pollCnt + BitVec.ofNat 32 (j + 1) := by
      rw [BitVec.add_assoc, Nat.add_comm j 1, BitVec.ofNat_add]
    simp [notReadyReads, List.replicate_succ, hc]

/-- A wait that settles on read `k` below the bound (R173, R176). -/
theorem leads_wait_settles {tp : TimeoutPolicy} {r : List MicroOp} {s : State} {k : Nat} {rest : List PinAnswer}
    (hb : s.apc.busy = true) (hl : opsLeft s = .wenter :: .wpoll tp :: r)
    (hpin : s.env.pin = readyAfter s.cfg k rest) (hk : k < s.cfg.pollBound.toNat) :
    Leads s { s with
      apc := { s.apc with step := s.apc.step + 2, sync := .settled, pollCnt := BitVec.ofNat 32 (k + 1) }
      env := { s.env with pin := rest }
      trace := s.trace ++ (notReadyReads s.cfg k ++ [readyRead s.cfg]) } := by
  have hlt := s.cfg.pollBound.isLt
  refine (leads_wenter hb hl).trans ?_
  have h2 := leads_notReady (s := { s with apc := { s.apc with step := s.apc.step + 1, sync := .polling, pollCnt := 0#32 } })
    (rest := .ok s.cfg.readyLevel :: rest) k hb (opsLeft_after 1 hl rfl rfl rfl rfl) hpin (by simp; omega)
  refine h2.trans (.one ?_)
  refine Eq.trans (microStep_left (m := .wpoll tp) (r := r) ?_ ?_) ?_
  · exact hb
  · exact opsLeft_after 1 hl rfl rfl rfl rfl
  have hbound : 0#32 + BitVec.ofNat 32 k < s.cfg.pollBound := by
    rw [BitVec.lt_def]; simp; omega
  simp only [runMicroOp, poll, hbound, if_true, pollAnswered, settleWait]
  have hc : 0#32 + BitVec.ofNat 32 k + 1#32 = BitVec.ofNat 32 (k + 1) := by
    rw [BitVec.zero_add, BitVec.ofNat_add]
  simp [State.mapApc, State.record, State.withEnv, Apc.countRead, Apc.settle, Apc.advance, readyRead]
  rw [BitVec.ofNat_add]

/-- A wait whose bound is exhausted (R174, R176): the state before the micro-step that finds it. -/
theorem leads_wait_exhausted {tp : TimeoutPolicy} {r : List MicroOp} {s : State} {rest : List PinAnswer}
    (hb : s.apc.busy = true) (hl : opsLeft s = .wenter :: .wpoll tp :: r)
    (hpin : s.env.pin = List.replicate s.cfg.pollBound.toNat (.ok s.cfg.notReadyLevel) ++ rest) :
    Leads s (pollTimedOut tp { s with
      apc := { s.apc with step := s.apc.step + 1, sync := .polling, pollCnt := s.cfg.pollBound }
      env := { s.env with pin := rest }
      trace := s.trace ++ notReadyReads s.cfg s.cfg.pollBound.toNat }) := by
  refine (leads_wenter hb hl).trans ?_
  have h2 := leads_notReady (s := { s with apc := { s.apc with step := s.apc.step + 1, sync := .polling, pollCnt := 0#32 } })
    (rest := rest) s.cfg.pollBound.toNat hb (opsLeft_after 1 hl rfl rfl rfl rfl) hpin (by simp)
  refine h2.trans (.one ?_)
  refine Eq.trans (microStep_left (m := .wpoll tp) (r := r) ?_ ?_) ?_
  · exact hb
  · exact opsLeft_after 1 hl rfl rfl rfl rfl
  have hc : 0#32 + BitVec.ofNat 32 s.cfg.pollBound.toNat = s.cfg.pollBound := by simp
  simp only [runMicroOp, poll, hc, BitVec.lt_irrefl, if_false]

end Sys2Proof.Machine
end

