-- ==== Sys2Proof/Laws/Request.lean ====
section
/-! SUPPORT. Requests: which are legal, what acceptance leaves, and a whole operation as a run from the accepted state. -/

namespace Sys2Proof.Machine

/-- The state right after a legal request was accepted (R30). -/
def accepted (r : Request) (s : State) : State :=
  { s with apc := { s.apc.latch r with busy := true, step := 0 } }

/-- The state right after an illegal request was refused (R30, R264). -/
def refusedIllegal (r : Request) (s : State) : State :=
  { s with apc := { s.apc.latch r with status := .illegalRequest, done := true } }

theorem accept_legal {r : Request} {s : State} (hb : s.apc.busy = false) (hl : requestLegal r = true) :
    accept r s = accepted r s := by
  simp only [accept, hb, acceptApc, hl, if_true, State.mapApc]; rfl

theorem accept_illegal {r : Request} {s : State} (hb : s.apc.busy = false) (hl : requestLegal r = false) :
    accept r s = refusedIllegal r s := by
  simp only [accept, hb, acceptApc, hl, State.mapApc]; rfl

theorem accept_busy {r : Request} {s : State} (hb : s.apc.busy = true) : accept r s = s := by
  simp [accept, hb]

theorem runOp_idle {s : State} (hb : s.apc.busy = false) : runOp s = s := runMicro_quiet (microStep_idle hb)

theorem runRequest_legal {r : Request} {s : State} (hb : s.apc.busy = false) (hl : requestLegal r = true) :
    runRequest r s = runOp (accepted r s) := by
  simp only [runRequest, hb, accept_legal hb hl]; rfl

theorem runRequest_illegal {r : Request} {s : State} (hb : s.apc.busy = false) (hl : requestLegal r = false) :
    runRequest r s = refusedIllegal r s := by
  simp only [runRequest, hb, accept_illegal hb hl]
  exact runOp_idle hb

theorem runRequest_busy {r : Request} {s : State} (hb : s.apc.busy = true) : runRequest r s = s := by
  simp [runRequest, hb]

/-! ## Legality -/

theorem isOperandless_iff (c : Byte) : isOperandless c = true ↔ c ∈ operandlessBytes := by
  revert c; decide

theorem requestLegal_iff (r : Request) : requestLegal r = true ↔
    ((r.op.toNat = 1 ∨ r.op.toNat = 2) ∧ r.fields.reg.toNat ≤ 10) ∨
    (3 ≤ r.op.toNat ∧ r.op.toNat ≤ 7) ∨ (r.op.toNat = 8 ∧ isOperandless r.fields.cmd = true) := by
  have key : ∀ (n m : Nat) (c : Bool), (match n with
      | 1 | 2 => decide (m < 11)
      | 3 | 4 | 5 | 6 | 7 => true
      | 8 => c
      | _ => false) = true ↔
      ((n = 1 ∨ n = 2) ∧ m ≤ 10) ∨ (3 ≤ n ∧ n ≤ 7) ∨ (n = 8 ∧ c = true) := by
    intro n m c
    split
    · simp [Nat.lt_succ_iff]
    · simp [Nat.lt_succ_iff]
    · simp
    · simp
    · simp
    · simp
    · simp
    · simp
    · simp only [Bool.false_eq_true, false_iff]
      rintro (⟨rfl | rfl, -⟩ | ⟨h, h'⟩ | ⟨rfl, -⟩)
      · contradiction
      · contradiction
      · interval_cases n <;> contradiction
      · contradiction
  exact key r.op.toNat r.fields.reg.toNat (isOperandless r.fields.cmd)

/-! ## The micro-program of an accepted request -/

theorem channelOutOfRange_false {p : Byte} (h : p.toNat ≤ 7) : channelOutOfRange p = false := by
  simp only [channelOutOfRange, decide_eq_false_iff_not]; omega

theorem channelOutOfRange_true {p : Byte} (h : 7 < p.toNat) : channelOutOfRange p = true := by
  simpa only [channelOutOfRange, decide_eq_true_eq] using h

/-- The whole micro-program is left after acceptance. -/
theorem opsLeft_accepted (r : Request) (s : State) :
    opsLeft (accepted r s) = programOf s.cfg (s.apc.latch r) := by
  have : programOf s.cfg { s.apc.latch r with busy := true, step := 0 } = programOf s.cfg (s.apc.latch r) :=
    programOf_congr_latched rfl
  simp only [opsLeft, accepted, this, List.drop_zero]

theorem opsLeft_selch {f : Fields} {s : State} (h : f.pin.toNat ≤ 7) :
    opsLeft (accepted ⟨5#4, f⟩ s) = [.wenter, .wpoll s.cfg.onWriteWaitTimeout, .selA,
      .tx [0x51#8, 0x00#8, muxenc f.pin], .selD, .finish] := by
  rw [opsLeft_accepted]
  show progSelch s.cfg (s.apc.latch ⟨5#4, f⟩) = _
  rw [progSelch, if_neg (by rw [Apc.latch_aPin, channelOutOfRange_false h]; simp)]
  rfl

theorem opsLeft_selch_invalid {f : Fields} {s : State} (h : 7 < f.pin.toNat) :
    opsLeft (accepted ⟨5#4, f⟩ s) = [.finish] := by
  rw [opsLeft_accepted]
  show progSelch s.cfg (s.apc.latch ⟨5#4, f⟩) = _
  rw [progSelch, if_pos (by rw [Apc.latch_aPin, channelOutOfRange_true h])]
  rfl

theorem opsLeft_acq {f : Fields} {s : State} (h : f.pin.toNat ≤ 7) :
    opsLeft (accepted ⟨6#4, f⟩ s) = [.wenter, .wpoll s.cfg.onWriteWaitTimeout,
      .selA, .tx [0x51#8, 0x00#8, muxenc f.pin], .selD, .selA, .tx [0xFC#8], .selD, .selA, .tx [0x00#8], .selD, .delay,
      .selA, .tx [0x01#8], .rx 3, .selD, .setres .sample, .finish] := by
  rw [opsLeft_accepted]
  show progAcq s.cfg (s.apc.latch ⟨6#4, f⟩) = _
  rw [progAcq, if_neg (by rw [Apc.latch_aPin, channelOutOfRange_false h]; simp)]
  rfl

theorem opsLeft_acq_invalid {f : Fields} {s : State} (h : 7 < f.pin.toNat) :
    opsLeft (accepted ⟨6#4, f⟩ s) = [.selA, .tx [0xFC#8], .selD, .selA, .tx [0x00#8], .selD, .delay,
      .selA, .tx [0x01#8], .rx 3, .selD, .setres .sample, .finish] := by
  rw [opsLeft_accepted]
  show progAcq s.cfg (s.apc.latch ⟨6#4, f⟩) = _
  rw [progAcq, if_pos (by rw [Apc.latch_aPin, channelOutOfRange_true h])]
  rfl

theorem opsLeft_wreg (f : Fields) (s : State) :
    opsLeft (accepted ⟨1#4, f⟩ s) = [.wenter, .wpoll s.cfg.onWriteWaitTimeout, .selA,
      .tx [0x50#8 ||| f.reg.zeroExtend 8, 0x00#8, f.dat.extractLsb' 0 8], .selD, .finish] := by
  rw [opsLeft_accepted]; rfl

theorem opsLeft_config (f : Fields) (s : State) :
    opsLeft (accepted ⟨7#4, f⟩ s) = [.wenter, .wpoll s.cfg.onWriteWaitTimeout, .selA,
      .tx [0x50#8, 0x03#8, f.dat.extractLsb' 0 8, f.dat.extractLsb' 8 8, f.dat.extractLsb' 16 8,
        f.dat.extractLsb' 24 8], .selD, .finish] := by
  rw [opsLeft_accepted]; rfl

theorem opsLeft_rreg (f : Fields) (s : State) :
    opsLeft (accepted ⟨2#4, f⟩ s) = [.selA, .tx [0x10#8 ||| f.reg.zeroExtend 8, 0x00#8], .rx 1, .selD,
      .setres .registerByte, .finish] := by
  rw [opsLeft_accepted]; rfl

theorem opsLeft_rdid (f : Fields) (s : State) :
    opsLeft (accepted ⟨3#4, f⟩ s) = [.wenter, .wpoll .propagate, .selA, .tx [0x10#8, 0x00#8], .rx 1, .selD,
      .setres .chipId, .finish] := by
  rw [opsLeft_accepted]; rfl

theorem opsLeft_waitrdy (f : Fields) (s : State) :
    opsLeft (accepted ⟨4#4, f⟩ s) = [.wenter, .wpoll .propagate, .finish] := by
  rw [opsLeft_accepted]; rfl

theorem opsLeft_cmd (f : Fields) (s : State) :
    opsLeft (accepted ⟨8#4, f⟩ s) = [.selA, .tx [f.cmd], .selD, .finish] := by
  rw [opsLeft_accepted]; rfl

end Sys2Proof.Machine
end

