-- ==== Sys2Proof/Laws/Step.lean ====
section
/-! SUPPORT. Steps around `exec`, and how far an operation has got: what one more micro-op does to `opsDone`, where a micro-program writes its result. -/

namespace Sys2Proof.Machine

/-! ## Steps -/

/-- A busy APC goes on with its operation. -/
theorem step_busy {s : State} (hr : s.rst = false) (hb : s.apc.busy = true) : step s = resume s := by
  rw [step, if_neg (by simp [hr]), if_pos hb]

/-- What is presented and does not decode. -/
theorem step_undecoded {s : State} {p : Presented} {rest : List Presented} {e : DecodeError}
    (hr : s.rst = false) (hb : s.apc.busy = false) (hin : s.inbox = p :: rest) (hd : decode p = .error e) :
    step s = undecoded p e { s with inbox := rest } := by
  rw [step, if_neg (by simp [hr]), if_neg (by simp [hb]), hin]
  simp only [takePresented, hd]

/-! ## Micro-ops done -/

theorem lastLevel_append (l : List MicroOp) (m : MicroOp) :
    lastLevel (l ++ [m]) = match m with
      | .selA => some .asserted
      | .selD => some .deasserted
      | _ => lastLevel l := by
  cases m <;> simp [lastLevel]

theorem writesResult_append (l : List MicroOp) (m : MicroOp) :
    writesResult (l ++ [m]) = (writesResult l || match m with
      | .setres _ => true
      | _ => false) := by
  cases m <;> simp [writesResult]

/-- One micro-op further. -/
theorem opsDone_succ {s : State} {m : MicroOp} (hm : currentOp s = some m) :
    (programOf s.cfg s.apc).take (s.apc.step + 1) = opsDone s ++ [m] := by
  have hm' : (programOf s.cfg s.apc)[s.apc.step]? = some m := hm
  rw [List.take_add_one, hm']
  rfl

/-- At END everything else is done. -/
theorem program_of_finish {s : State} (hm : currentOp s = some .finish) :
    programOf s.cfg s.apc = opsDone s ++ [.finish] := by
  rw [← opsDone_succ hm, step_of_finish hm, List.take_length]

/-! ## Where a micro-program writes its result, and what it sends -/

/-- A micro-program writes a result just before END or not at all (R27). -/
theorem program_result_last (c : Cfg) (a : Apc) (h : programOf c a ≠ []) :
    ∃ body, writesResult body = false ∧
      (programOf c a = body ++ [.finish] ∨ ∃ k, programOf c a = body ++ [.setres k, .finish]) := by
  rcases programOf_cases c a with h' | h' | h' | h' | h' | h' | h' | h' | h' | h' | h'
  · exact ⟨(progWreg c a).take 5, rfl, .inl h'.2⟩
  · exact ⟨(progRreg a).take 4, rfl, .inr ⟨_, h'.2⟩⟩
  · exact ⟨progRdid.take 6, rfl, .inr ⟨_, h'.2⟩⟩
  · exact ⟨progWaitrdy.take 2, rfl, .inl h'.2⟩
  · exact ⟨(progSelchValid c a).take 5, rfl, .inl h'.2.2⟩
  · refine ⟨[], rfl, .inl ?_⟩
    rw [h'.2.2, progSelchInvalid]; rfl
  · exact ⟨(progAcqValid c a).take 16, rfl, .inr ⟨_, h'.2.2⟩⟩
  · refine ⟨[.selA, .tx [0xFC#8], .selD, .selA, .tx [0x00#8], .selD, .delay, .selA, .tx [0x01#8], .rx 3, .selD], rfl,
      .inr ⟨.sample, ?_⟩⟩
    rw [h'.2.2, progAcqInvalid]; rfl
  · exact ⟨(progConfig c a).take 5, rfl, .inl h'.2⟩
  · exact ⟨(progCmd a).take 3, rfl, .inl h'.2⟩
  · exact absurd h'.2 h

/-- A micro-op that can fail stands before the one that writes the result. -/
theorem result_not_written {s : State} {m : MicroOp} (hm : currentOp s = some m) (hf : m ≠ .finish) :
    writesResult (opsDone s) = false := by
  have hm' : (programOf s.cfg s.apc)[s.apc.step]? = some m := hm
  have hne : programOf s.cfg s.apc ≠ [] := by intro h0; rw [h0] at hm'; cases hm'
  have key : ∀ (body : List MicroOp) (n : Nat), writesResult body = false → n ≤ body.length →
      ∀ r, writesResult ((body ++ r).take n) = false := by
    intro body n hw hn r
    rw [List.take_append_of_le_length hn]
    simp only [writesResult, List.any_eq_false] at hw ⊢
    exact fun x hx => hw x (List.mem_of_mem_take hx)
  have hlt := step_lt_of_not_finish hm hf
  obtain ⟨body, hw, he | ⟨k, he⟩⟩ := program_result_last _ _ hne <;>
    rw [opsDone, he] <;> rw [he] at hlt <;> refine key body _ hw ?_ _ <;>
    simp only [List.length_append, List.length_cons, List.length_nil] at hlt <;> omega

/-- Every frame a micro-program sends has 1, 2, 3 or 6 bytes (R62). -/
theorem program_frame_length {c : Cfg} {a : Apc} {fr : List Byte} (h : .tx fr ∈ programOf c a) :
    fr.length ∈ [1, 2, 3, 6] := by
  rcases programOf_cases c a with h' | h' | h' | h' | h' | h' | h' | h' | h' | h' | h'
  · rw [h'.2, progWreg] at h; simp at h; subst h; simp [encw]
  · rw [h'.2, progRreg] at h; simp at h; subst h; simp [encr]
  · rw [h'.2, progRdid] at h; simp at h; subst h; simp [encr]
  · rw [h'.2, progWaitrdy] at h; simp at h
  · rw [h'.2.2, progSelchValid] at h; simp at h; subst h; simp [encw]
  · rw [h'.2.2, progSelchInvalid] at h; simp at h
  · rw [h'.2.2, progAcqValid] at h; simp at h; rcases h with h | h | h | h <;> subst h <;> simp [encw]
  · rw [h'.2.2, progAcqInvalid] at h; simp at h; rcases h with h | h | h <;> subst h <;> simp
  · rw [h'.2, progConfig] at h; simp at h; subst h; simp [encw]
  · rw [h'.2, progCmd] at h; simp at h; subst h; simp
  · rw [h'.2] at h; simp at h

/-- Every read a micro-program makes asks for 1 or 3 bytes (R62). -/
theorem program_read_length {c : Cfg} {a : Apc} {n : Nat} (h : .rx n ∈ programOf c a) : n ∈ [1, 3] := by
  rcases programOf_cases c a with h' | h' | h' | h' | h' | h' | h' | h' | h' | h' | h'
  · rw [h'.2, progWreg] at h; simp at h
  · rw [h'.2, progRreg] at h; simp at h; simp [h]
  · rw [h'.2, progRdid] at h; simp at h; simp [h]
  · rw [h'.2, progWaitrdy] at h; simp at h
  · rw [h'.2.2, progSelchValid] at h; simp at h
  · rw [h'.2.2, progSelchInvalid] at h; simp at h
  · rw [h'.2.2, progAcqValid] at h; simp at h; simp [h]
  · rw [h'.2.2, progAcqInvalid] at h; simp at h; simp [h]
  · rw [h'.2, progConfig] at h; simp at h
  · rw [h'.2, progCmd] at h; simp at h
  · rw [h'.2] at h; simp at h

/-- A read counted below the bound stays within it (R253). -/
theorem countRead_le {p b : Word} (h : p < b) : p + 1#32 ≤ b := by
  have := b.isLt
  rw [BitVec.lt_def] at h
  rw [BitVec.le_def, BitVec.toNat_add]
  simp only [BitVec.toNat_ofNat]
  omega

end Sys2Proof.Machine
end

