-- ==== Sys2Proof/Laws/Bracket.lean ====
section
/-! SUPPORT. Brackets as the micro-programs lay them out, micro-op by micro-op (R66): every micro-program keeps the rule and ends outside a bracket. -/

namespace Sys2Proof.Machine

theorem brackets_append (p : Bracket) (es es' : List Event) :
    brackets p (es ++ es') = (brackets p es).bind (brackets · es') := by
  simp only [brackets, List.foldlM_append]; rfl

theorem shadowAfter_append (l : SelLevel) (es es' : List Event) :
    shadowAfter l (es ++ es') = shadowAfter (shadowAfter l es) es' := by
  simp only [shadowAfter, List.foldl_append]

/-- Where a micro-op that succeeds leaves the bracket it stands in. -/
def opBracket (p : Bracket) (m : MicroOp) : Option Bracket :=
  match p, m with
  | .outside, .selA => some .opened
  | .outside, .wenter | .outside, .wpoll _ | .outside, .delay | .outside, .setres _ | .outside, .finish => some .outside
  | .opened, .tx frame => some (.sent frame)
  | .sent frame, .rx n => if isReplyTo frame n then some .answered else none
  | .sent _, .selD | .answered, .selD => some .outside
  | _, _ => none

/-- Where a list of micro-ops that all succeed leaves it. -/
def opBrackets (p : Bracket) (ms : List MicroOp) : Option Bracket := ms.foldlM opBracket p

theorem opBrackets_append (p : Bracket) (ms ms' : List MicroOp) :
    opBrackets p (ms ++ ms') = (opBrackets p ms).bind (opBrackets · ms') := by
  simp only [opBrackets, List.foldlM_append]; rfl

theorem isReplyTo_encr (r : RegAddr) : isReplyTo (encr r 1) 1 = true := by
  revert r; decide

/-- Every micro-program is a list of whole brackets. -/
theorem program_brackets (c : Cfg) (a : Apc) : opBrackets .outside (programOf c a) = some .outside := by
  rcases programOf_cases c a with h' | h' | h' | h' | h' | h' | h' | h' | h' | h' | h'
  · rw [h'.2]; rfl
  · rw [h'.2]
    show (if isReplyTo (encr a.aReg 1) 1 then some Bracket.answered else none).bind _ = _
    rw [if_pos (isReplyTo_encr a.aReg)]; rfl
  · rw [h'.2]; rfl
  · rw [h'.2]; rfl
  · rw [h'.2.2]; rfl
  · rw [h'.2.2, progSelchInvalid]; rfl
  · rw [h'.2.2]; rfl
  · rw [h'.2.2, progAcqInvalid]; rfl
  · rw [h'.2]; rfl
  · rw [h'.2]; rfl
  · rw [h'.2]; rfl

/-- The current micro-op takes the bracket the operation stands in to a bracket. -/
theorem currentOp_bracket {s : State} {m : MicroOp} (hm : currentOp s = some m) :
    ∃ p q, opBrackets .outside (opsDone s) = some p ∧ opBracket p m = some q ∧
      opBrackets .outside (opsDone s ++ [m]) = some q := by
  have hall := program_brackets s.cfg s.apc
  rw [← List.take_append_drop (s.apc.step + 1) (programOf s.cfg s.apc), opsDone_succ hm, opBrackets_append] at hall
  cases hq : opBrackets .outside (opsDone s ++ [m]) with
  | none => rw [hq] at hall; cases hall
  | some q =>
    rw [opBrackets_append] at hq
    cases hp : opBrackets .outside (opsDone s) with
    | none => rw [hp] at hq; cases hq
    | some p =>
      rw [hp] at hq
      refine ⟨p, q, rfl, ?_, rfl⟩
      cases ho : opBracket p m with
      | none => simp [opBrackets, ho] at hq
      | some q' => simpa [opBrackets, ho] using hq

/-- The select that closes the last bracket is a deassert. -/
theorem program_lastLevel {c : Cfg} {a : Apc} {l : SelLevel} (h : lastLevel (programOf c a) = some l) :
    l = .deasserted := by
  rcases programOf_cases c a with h' | h' | h' | h' | h' | h' | h' | h' | h' | h' | h'
  · rw [h'.2] at h; exact (Option.some.inj h).symm
  · rw [h'.2] at h; exact (Option.some.inj h).symm
  · rw [h'.2] at h; exact (Option.some.inj h).symm
  · rw [h'.2] at h; cases h
  · rw [h'.2.2] at h; exact (Option.some.inj h).symm
  · rw [h'.2.2, progSelchInvalid] at h; cases h
  · rw [h'.2.2] at h; exact (Option.some.inj h).symm
  · rw [h'.2.2, progAcqInvalid] at h; exact (Option.some.inj h).symm
  · rw [h'.2] at h; exact (Option.some.inj h).symm
  · rw [h'.2] at h; exact (Option.some.inj h).symm
  · rw [h'.2] at h; cases h

end Sys2Proof.Machine
end

