-- ==== Sys2Proof/Laws/PerInstr.lean ====
section
/-! SUPPORT. Statements about every instruction as syntax, one lemma per constructor. -/

namespace Sys2Proof.Laws

/-- The top four of 56 bits. -/
theorem extract_top (o : BitVec 4) (x : BitVec 52) : (o ++ x).extractLsb' 52 4 = o := by
  apply BitVec.eq_of_toNat_eq
  have h0 := o.isLt
  have h1 := x.isLt
  rw [BitVec.extractLsb'_toNat, BitVec.toNat_append, ← Nat.shiftLeft_add_eq_or_of_lt h1, Nat.shiftLeft_eq,
    Nat.shiftRight_eq_div_pow]
  omega

/-- The code stands in the top four bits of a request word (R110). -/
theorem packRequest_code (o : BitVec 4) (f : Fields) : (unpackRequest (packRequest ⟨o, f⟩)).op = o :=
  extract_top o _

namespace EncodedLength

/-- What an instruction is encoded as: a host operation as a word whose code is 1 to 8 (R111, R114), a wire command as a
frame of exactly the bytes its first two bytes announce (R115). -/
def Statement (i : Instr) : Prop :=
  i.encodable = true → match encode i with
    | .request w => 1 ≤ (unpackRequest w).op.toNat ∧ (unpackRequest w).op.toNat ≤ 8
    | .frame bytes => bytes.length = frameLength (bytes.getD 0 0#8) (bytes.getD 1 0#8)

theorem host {o : BitVec 4} {f : Fields} (h : 1 ≤ o.toNat ∧ o.toNat ≤ 8) :
    1 ≤ (unpackRequest (packRequest ⟨o, f⟩)).op.toNat ∧ (unpackRequest (packRequest ⟨o, f⟩)).op.toNat ≤ 8 := by
  rw [packRequest_code]; exact h

theorem register_bytes (r : RegAddr) : isReadRegByte (0x1#4 ++ r : Byte) = true ∧
    isReadRegByte (0x5#4 ++ r : Byte) = false ∧ isWriteRegByte (0x5#4 ++ r : Byte) = true := by
  revert r; decide

theorem wakeup : Statement .wakeup := fun _ => rfl

theorem readData : Statement .readData := fun _ => rfl

theorem readDataContinuous : Statement .readDataContinuous := fun _ => rfl

theorem stopContinuous : Statement .stopContinuous := fun _ => rfl

theorem readReg (reg : RegAddr) (countM1 : Byte) : Statement (.readReg reg countM1) := fun _ => by
  show 2 = frameLength (0x1#4 ++ reg : Byte) countM1
  rw [frameLength, if_pos (register_bytes reg).1]

theorem writeReg (reg : RegAddr) (values : List Byte) : Statement (.writeReg reg values) := fun h => by
  have hl : 1 ≤ values.length ∧ values.length ≤ 256 := by simpa [Instr.encodable] using h
  obtain ⟨-, hr, hw⟩ := register_bytes reg
  show values.length + 1 + 1 = frameLength (0x5#4 ++ reg : Byte) (BitVec.ofNat 8 (values.length - 1))
  rw [frameLength, if_neg (by simp [hr]), if_pos hw, BitVec.toNat_ofNat]
  omega

theorem selfCal : Statement .selfCal := fun _ => rfl

theorem selfOffsetCal : Statement .selfOffsetCal := fun _ => rfl

theorem selfGainCal : Statement .selfGainCal := fun _ => rfl

theorem systemOffsetCal : Statement .systemOffsetCal := fun _ => rfl

theorem systemGainCal : Statement .systemGainCal := fun _ => rfl

theorem sync : Statement .sync := fun _ => rfl

theorem standby : Statement .standby := fun _ => rfl

theorem reset : Statement .reset := fun _ => rfl

theorem wreg (f : Fields) : Statement (.wreg f) := fun _ => host (by decide)

theorem rreg (f : Fields) : Statement (.rreg f) := fun _ => host (by decide)

theorem rdid (f : Fields) : Statement (.rdid f) := fun _ => host (by decide)

theorem waitrdy (f : Fields) : Statement (.waitrdy f) := fun _ => host (by decide)

theorem selch (f : Fields) : Statement (.selch f) := fun _ => host (by decide)

theorem acq (f : Fields) : Statement (.acq f) := fun _ => host (by decide)

theorem config (f : Fields) : Statement (.config f) := fun _ => host (by decide)

theorem cmd (f : Fields) : Statement (.cmd f) := fun _ => host (by decide)

end EncodedLength

end Sys2Proof.Laws
end

