-- ==== Sys2Proof/Tests/Slice0.lean ====
section
/-! SUPPORT. The model's own tests. Words are written out from spec/30_encoding.md; expected results are those of spec/95_test_vectors.md, named at each test. The last part shows, for every obligation with hypotheses, a state and operands that meet them. -/

namespace Sys2Proof.Tests

open Sys2Proof Sys2Proof.Machine

/-! ## Helpers -/

/-- A concrete instance: bound 3, ready level low. -/
def cfg3 : Cfg where
  pollBound := 3#32
  onPinReadError := .propagateError
  onWriteWaitTimeout := .propagate
  invalidChannelPolicy := .silentNoOp
  onShortTransfer := .error
  readyLevel := .low
  settleDelay := 0
  drdyPinId := 17
  csPinId := 8
  transport := ⟨1000000, 1, .msbFirst, 8, .low⟩

/-- The same with the other two policies. -/
def cfgLax : Cfg := { cfg3 with onPinReadError := .treatAsReady, onWriteWaitTimeout := .suppress }

/-- The registers at reset, an instance, the environment's answers. -/
def mk (c : Cfg) (sel : List SelAnswer) (tx : List TxAnswer) (rx : List RxAnswer) (pin : List PinAnswer) : State :=
  { apc := Apc.reset, cfg := c, env := ⟨sel, tx, rx, pin⟩, inbox := [], rst := false, trace := [] }

/-- The fields of a request, unused ones zero. -/
def fields (reg : RegAddr) (pin cmd : Byte) (dat : Word) : Fields := ⟨reg, pin, cmd, dat⟩

/-- The state an instruction leaves; the one before where it leaves none. -/
def after (i : Instr) (s : State) : State :=
  match exec i s with
  | .next t => t
  | .fault _ | .refused _ => s

/-- The next state of a step, if it has one. -/
def stepped (s : State) : Option State :=
  match step s with
  | .next t => some t
  | .fault _ | .refused _ => none

/-- The fault of a step, if it ends in one. -/
def faulted (s : State) : Option Fault :=
  match step s with
  | .fault f => some f
  | .next _ | .refused _ => none

/-- The refusal of a step, if it ends in one. -/
def refusedBy (s : State) : Option Refusal :=
  match step s with
  | .refused r => some r
  | .next _ | .fault _ => none

/-- `SEL(A)`, `TX[f]`, `SEL(D)`, written out. -/
def sent (f : List Byte) : List Event :=
  [.sel .asserted .ok, .tx f (.ok f.length), .sel .deasserted .ok]

/-- `SEL(A)`, `TX[f]`, `RX(n)->[r]`, `SEL(D)`, written out. -/
def read (f r : List Byte) : List Event :=
  [.sel .asserted .ok, .tx f (.ok f.length), .rx r.length (.ok r), .sel .deasserted .ok]

/-- `PIN->ready`, the line low. -/
def ready : Event := .pin 17 (.ok .low)

/-- `PIN->notready`. -/
def notReady : Event := .pin 17 (.ok .high)

/-- A state in which every select is answered Ok, and one transfer of `n` bytes. -/
def oneFrame (n : Nat) (pin : List PinAnswer) : State := mk cfg3 [.ok, .ok] [.ok n] [] pin

/-- Trace, STATUS, step and `cs` of a state. -/
def seen (t : State) : List Event × Status × Nat × SelLevel := (t.trace, t.apc.status, t.apc.step, t.apc.cs)

/-! ## Well-formedness: each check refuses an ill-formed term -/

theorem test_wf_wreg_reg : (Instr.wreg (fields 11#4 0#8 0#8 0#32)).wellFormed = false ∧
    (Instr.wreg (fields 10#4 0#8 0#8 0#32)).wellFormed = true := by decide

theorem test_wf_rreg_reg : (Instr.rreg (fields 11#4 0#8 0#8 0#32)).wellFormed = false ∧
    (Instr.rreg (fields 10#4 0#8 0#8 0#32)).wellFormed = true := by decide

theorem test_wf_cmd_byte : (Instr.cmd (fields 0#4 0#8 0x02#8 0#32)).wellFormed = false ∧
    (Instr.cmd (fields 0#4 0#8 0x51#8 0#32)).wellFormed = false ∧
    (Instr.cmd (fields 0#4 0#8 0xFC#8 0#32)).wellFormed = true := by decide

theorem test_wf_readReg_reg : (Instr.readReg 11#4 0#8).wellFormed = false ∧
    (Instr.readReg 10#4 0#8).wellFormed = true := by decide

theorem test_wf_readReg_count : (Instr.readReg 0#4 1#8).wellFormed = false := by decide

theorem test_wf_writeReg_reg : (Instr.writeReg 11#4 [0#8]).wellFormed = false ∧
    (Instr.writeReg 10#4 [0#8]).wellFormed = true := by decide

theorem test_wf_writeReg_length : (Instr.writeReg 0#4 []).wellFormed = false ∧
    (Instr.writeReg 0#4 [0#8, 0#8]).wellFormed = false ∧
    (Instr.writeReg 1#4 [0#8, 0#8, 0#8, 0#8]).wellFormed = false ∧
    (Instr.writeReg 0#4 [0#8, 0#8, 0#8, 0#8]).wellFormed = true := by decide

theorem test_encodable_empty : (Instr.writeReg 0#4 []).encodable = false ∧
    (Instr.writeReg 0#4 [0#8]).encodable = true := by decide

/-- A payload of 257 bytes does not fit the count byte (R103); one of 256 does. -/
theorem test_encodable_longest : (Instr.writeReg 0#4 (List.replicate 257 0#8)).encodable = false ∧
    (Instr.writeReg 0#4 (List.replicate 256 0#8)).encodable = true := by
  have key (n : Nat) : (Instr.writeReg 0#4 (List.replicate n 0#8)).encodable = (1 ≤ n && n ≤ 256) := by
    show (decide (1 ≤ (List.replicate n 0#8).length) && decide ((List.replicate n 0#8).length ≤ 256)) = _
    rw [List.length_replicate]
  rw [key, key]
  decide

/-! ## Decoding: a word written out for every constructor (R104, R110, R111) -/

theorem test_decode_operandless :
    decode (.frame [0b00000000#8]) = .ok .wakeup ∧
    decode (.frame [0b00000001#8]) = .ok .readData ∧
    decode (.frame [0b00000011#8]) = .ok .readDataContinuous ∧
    decode (.frame [0b00001111#8]) = .ok .stopContinuous ∧
    decode (.frame [0b11110000#8]) = .ok .selfCal ∧
    decode (.frame [0b11110001#8]) = .ok .selfOffsetCal ∧
    decode (.frame [0b11110010#8]) = .ok .selfGainCal ∧
    decode (.frame [0b11110011#8]) = .ok .systemOffsetCal ∧
    decode (.frame [0b11110100#8]) = .ok .systemGainCal ∧
    decode (.frame [0b11111100#8]) = .ok .sync ∧
    decode (.frame [0b11111101#8]) = .ok .standby ∧
    decode (.frame [0b11111110#8]) = .ok .reset := by decide

/-- Vector E25, with the register nibble 0b1010. -/
theorem test_decode_readReg : decode (.frame [0b00011010#8, 0b00000000#8]) = .ok (.readReg 10#4 0#8) := by decide

/-- Vector E12. -/
theorem test_decode_writeReg :
    decode (.frame [0b01010000#8, 0b00000011#8, 0x00#8, 0x08#8, 0x00#8, 0xF0#8]) =
      .ok (.writeReg 0#4 [0x00#8, 0x08#8, 0x00#8, 0xF0#8]) := by decide

/-- Vectors A2, A9, A13 and the WAITRDY word. -/
theorem test_decode_host_registers :
    decode (.request 0x1A0000000000AB#56) = .ok (.wreg (fields 10#4 0#8 0#8 0xAB#32)) ∧
    decode (.request 0x23000000000000#56) = .ok (.rreg (fields 3#4 0#8 0#8 0#32)) ∧
    decode (.request 0x30000000000000#56) = .ok (.rdid (fields 0#4 0#8 0#8 0#32)) ∧
    decode (.request 0x40000000000000#56) = .ok (.waitrdy (fields 0#4 0#8 0#8 0#32)) := by decide

/-- Vectors I6, Q4, A17, K11. -/
theorem test_decode_host_others :
    decode (.request 0x5BFF0000000000#56) = .ok (.selch (fields 11#4 0xFF#8 0#8 0#32)) ∧
    decode (.request 0x60090000000000#56) = .ok (.acq (fields 0#4 9#8 0#8 0#32)) ∧
    decode (.request 0x700000F0000800#56) = .ok (.config (fields 0#4 0#8 0#8 0xF0000800#32)) ∧
    decode (.request 0x8000FD00000000#56) = .ok (.cmd (fields 0#4 0#8 0xFD#8 0#32)) := by decide

/-- R113, R114: outside the tables. -/
theorem test_decode_rejects :
    decode (.request 0x00000000000000#56) = .error (.unassignedOp 0#4) ∧
    decode (.request 0x90000000000000#56) = .error (.unassignedOp 9#4) ∧
    decode (.frame [0x02#8]) = .error (.undefinedCommand 0x02#8) ∧
    decode (.frame []) = .error .emptyFrame ∧
    decode (.frame [0x50#8, 0x03#8, 0x00#8]) = .error .truncatedFrame ∧
    decode (.frame [0xFC#8, 0x00#8]) = .error .overlongFrame := by decide

/-- Table words: a request of 56 bits, a one-byte row, and a row whose operand bytes the table gives no bits. -/
theorem test_decodeTableWord :
    decodeTableWord 56 0x60030000000000 = some (.acq (fields 0#4 3#8 0#8 0#32)) ∧
    decodeTableWord 8 0xFE = some .reset ∧
    decodeTableWord 8 0x13 = some (.readReg 3#4 0#8) ∧
    decodeTableWord 8 0x52 = some (.writeReg 2#4 [0#8]) ∧
    decodeTableWord 16 0x0A10 = some (.readReg 0#4 0x0A#8) ∧
    decodeTableWord 8 0x02 = none := by decide

/-- A table word put where the machine takes its next instruction runs as the first step after reset. -/
theorem test_withFetchWord_reset :
    (stepped (State.reset.withFetchWord 56 0x50080000000000)).map (fun t => (t.apc.op, t.apc.aPin, t.apc.done)) =
      some (5#4, 8#8, true) := by decide

/-! ## Pure functions -/

/-- Vectors E14, E26. -/
theorem test_frames : encw 5#4 [0x11#8, 0x22#8, 0x33#8] = [0x55#8, 0x02#8, 0x11#8, 0x22#8, 0x33#8] ∧
    encr 0#4 11 = [0x10#8, 0x0A#8] := by decide

/-- Vectors X2 to X4, X6 to X8, X12. -/
theorem test_decodeSample :
    decodeSample 0x00#8 0x00#8 0x01#8 = 0x00000001#32 ∧ decodeSample 0x7F#8 0xFF#8 0xFF#8 = 0x007FFFFF#32 ∧
    decodeSample 0x80#8 0x00#8 0x00#8 = 0xFF800000#32 ∧ decodeSample 0xFF#8 0xFF#8 0xFF#8 = 0xFFFFFFFF#32 ∧
    decodeSample 0x12#8 0x34#8 0x56#8 = 0x00123456#32 ∧ decodeSample 0xFE#8 0xDC#8 0xBA#8 = 0xFFFEDCBA#32 ∧
    decodeSample 0x00#8 0x80#8 0x00#8 = 0x00008000#32 := by decide

/-! ## The wire commands: vectors K1 to K12 -/

theorem test_wakeup : seen (after .wakeup (oneFrame 1 [])) = (sent [0x00#8], .ok, 3, .deasserted) := by decide

theorem test_readData : seen (after .readData (oneFrame 1 [])) = (sent [0x01#8], .ok, 3, .deasserted) := by decide

theorem test_readDataContinuous :
    seen (after .readDataContinuous (oneFrame 1 [])) = (sent [0x03#8], .ok, 3, .deasserted) := by decide

theorem test_stopContinuous :
    seen (after .stopContinuous (oneFrame 1 [])) = (sent [0x0F#8], .ok, 3, .deasserted) := by decide

theorem test_selfCal : seen (after .selfCal (oneFrame 1 [])) = (sent [0xF0#8], .ok, 3, .deasserted) := by decide

theorem test_selfOffsetCal :
    seen (after .selfOffsetCal (oneFrame 1 [])) = (sent [0xF1#8], .ok, 3, .deasserted) := by decide

theorem test_selfGainCal : seen (after .selfGainCal (oneFrame 1 [])) = (sent [0xF2#8], .ok, 3, .deasserted) := by decide

theorem test_systemOffsetCal :
    seen (after .systemOffsetCal (oneFrame 1 [])) = (sent [0xF3#8], .ok, 3, .deasserted) := by decide

theorem test_systemGainCal :
    seen (after .systemGainCal (oneFrame 1 [])) = (sent [0xF4#8], .ok, 3, .deasserted) := by decide

theorem test_sync : seen (after .sync (oneFrame 1 [])) = (sent [0xFC#8], .ok, 3, .deasserted) := by decide

theorem test_standby : seen (after .standby (oneFrame 1 [])) = (sent [0xFD#8], .ok, 3, .deasserted) := by decide

theorem test_reset : seen (after .reset (oneFrame 1 [])) = (sent [0xFE#8], .ok, 3, .deasserted) := by decide

/-- READ_REG: vector A10. -/
theorem test_readReg :
    let t := after (.readReg 10#4 0#8) (mk cfg3 [.ok, .ok] [.ok 2] [.ok [0xFF#8]] [])
    t.trace = read [0x1A#8, 0x00#8] [0xFF#8] ∧ t.apc.res = 0x000000FF#32 ∧ t.apc.resValid = true := by decide

/-- WRITE_REG of one byte: vector A3; of four: vector A18. -/
theorem test_writeReg :
    (after (.writeReg 3#4 [0xF0#8]) (oneFrame 3 [.ok .low])).trace = ready :: sent [0x53#8, 0x00#8, 0xF0#8] ∧
    (after (.writeReg 0#4 [0xFF#8, 0xFF#8, 0xFF#8, 0xFF#8]) (oneFrame 6 [.ok .low])).trace =
      ready :: sent [0x50#8, 0x03#8, 0xFF#8, 0xFF#8, 0xFF#8, 0xFF#8] := by decide

/-! ## The host operations -/

/-- Vector A2. -/
theorem test_wreg :
    let t := after (.wreg (fields 10#4 0#8 0#8 0xAB#32)) (oneFrame 3 [.ok .high, .ok .low])
    seen t = (notReady :: ready :: sent [0x5A#8, 0x00#8, 0xAB#8], .ok, 5, .deasserted) ∧ t.apc.pollCnt = 2#32 := by decide

/-- Vector A8: a short count; the buffer was written before the call. -/
theorem test_wreg_short :
    let t := after (.wreg (fields 2#4 0#8 0#8 0x20#32)) (mk cfg3 [.ok, .ok] [.ok 2] [] [.ok .low])
    seen t = ([ready, .sel .asserted .ok, .tx [0x52#8, 0x00#8, 0x20#8] (.ok 2)], .transportError, 3, .asserted) ∧
      t.apc.txb = ⟨0x52#8, 0x00#8, 0x20#8, 0#8, 0#8, 0#8⟩ := by decide

/-- Vector A9: no look at the readiness line. -/
theorem test_rreg :
    let t := after (.rreg (fields 3#4 0#8 0#8 0#32)) (mk cfg3 [.ok, .ok] [.ok 2] [.ok [0xF0#8]] [.ok .high])
    seen t = (read [0x13#8, 0x00#8] [0xF0#8], .ok, 5, .deasserted) ∧ t.apc.res = 0xF0#32 := by decide

/-- Vector A12: the deassert fails. -/
theorem test_rreg_deassert_fails :
    let t := after (.rreg (fields 0#4 0#8 0#8 0#32)) (mk cfg3 [.ok, .err] [.ok 2] [.ok [0x31#8]] [])
    (t.apc.status, t.apc.step, t.apc.cs, t.apc.rxb.b0, t.apc.res, t.apc.resValid) =
      (.transportError, 3, .asserted, 0x31#8, 0#32, false) := by decide

/-- Program P2 (a). -/
theorem test_rdid :
    let t := after (.rdid (fields 0#4 0#8 0#8 0#32)) (mk cfg3 [.ok, .ok] [.ok 2] [.ok [0x30#8]] [.ok .high, .ok .low])
    seen t = (notReady :: ready :: read [0x10#8, 0x00#8] [0x30#8], .ok, 7, .deasserted) ∧ t.apc.res = 3#32 := by decide

/-- Vector A16: RDID propagates a timeout under Suppress too. -/
theorem test_rdid_timeout :
    seen (after (.rdid (fields 0#4 0#8 0#8 0#32)) (mk cfgLax [] [] [] [.ok .high, .ok .high, .ok .high])) =
      ([notReady, notReady, notReady], .timeoutError, 1, .deasserted) := by decide

/-- Vectors W3 and W4: k = bound - 1 settles, k = bound times out. -/
theorem test_waitrdy :
    let f := fields 0#4 0#8 0#8 0#32
    (after (.waitrdy f) (mk cfg3 [] [] [] [.ok .high, .ok .high, .ok .low])).apc.status = .ok ∧
    (after (.waitrdy f) (mk cfg3 [] [] [] [.ok .high, .ok .high, .ok .high, .ok .low])).apc.status = .timeoutError ∧
    (after (.waitrdy f) (mk cfg3 [] [] [] [.ok .high, .ok .high, .ok .high, .ok .low])).env.pin = [.ok .low] := by decide

/-- Vectors W10 and W12: a failed read of the line. -/
theorem test_waitrdy_pin_error :
    let f := fields 0#4 0#8 0#8 0#32
    (after (.waitrdy f) (mk cfgLax [] [] [] [.err])).apc.sync = .settled ∧
    (after (.waitrdy f) (mk cfg3 [] [] [] [.ok .high, .ok .high, .err])).apc.status = .transportError := by decide

/-- Vector M8. -/
theorem test_selch :
    seen (after (.selch (fields 0#4 7#8 0#8 0#32)) (oneFrame 3 [.ok .low])) =
      (ready :: sent [0x51#8, 0x00#8, 0x78#8], .ok, 5, .deasserted) := by decide

/-- Vector M9: one above the range; not masked to channel 0. -/
theorem test_selch_8 :
    seen (after (.selch (fields 0#4 8#8 0#8 0#32)) (oneFrame 3 [.ok .low])) = ([], .ok, 0, .deasserted) := by decide

/-- Vector Q3. -/
theorem test_acq :
    let t := after (.acq (fields 0#4 3#8 0#8 0#32)) (mk cfg3 (List.replicate 8 .ok) [.ok 3, .ok 1, .ok 1, .ok 1]
      [.ok [0x80#8, 0x00#8, 0x00#8]] [.ok .low])
    seen t = (ready :: sent [0x51#8, 0x00#8, 0x38#8] ++ sent [0xFC#8] ++ sent [0x00#8] ++ [.delay] ++
      read [0x01#8] [0x80#8, 0x00#8, 0x00#8], .ok, 17, .deasserted) ∧ t.apc.res = 0xFF800000#32 := by decide

/-- Vector Q4: a channel above 7 still acquires. -/
theorem test_acq_9 :
    let t := after (.acq (fields 0#4 9#8 0#8 0#32)) (mk cfg3 (List.replicate 6 .ok) [.ok 1, .ok 1, .ok 1]
      [.ok [0x7F#8, 0xFF#8, 0xFF#8]] [])
    seen t = (sent [0xFC#8] ++ sent [0x00#8] ++ [.delay] ++ read [0x01#8] [0x7F#8, 0xFF#8, 0xFF#8], .ok, 12, .deasserted) ∧
      t.apc.res = 0x007FFFFF#32 := by decide

/-- Program P1, its first line. -/
theorem test_config :
    let t := after (.config (fields 0#4 0#8 0#8 0xF0000800#32)) (oneFrame 6 [.ok .low])
    seen t = (ready :: sent [0x50#8, 0x03#8, 0x00#8, 0x08#8, 0x00#8, 0xF0#8], .ok, 5, .deasserted) ∧
      t.apc.txLen = 6#3 := by decide

/-- Vector A19. -/
theorem test_config_short :
    let t := after (.config (fields 0#4 0#8 0#8 0x04030201#32)) (mk cfg3 [.ok, .ok] [.ok 5] [] [.ok .low])
    (t.apc.status, t.apc.cs) = (.transportError, .asserted) := by decide

/-- Vector K17: the assert fails. -/
theorem test_cmd_assert_fails :
    seen (after (.cmd (fields 0#4 0#8 0xFC#8 0#32)) (mk cfg3 [.err] [] [] [])) =
      ([.sel .asserted .err], .transportError, 0, .deasserted) := by decide

/-- Vectors K13, K14. -/
theorem test_cmd_illegal :
    (after (.cmd (fields 0#4 0#8 0x02#8 0#32)) (oneFrame 1 [])).apc.status = .illegalRequest ∧
    (after (.cmd (fields 0#4 0#8 0x10#8 0#32)) (oneFrame 1 [])).trace = [] := by decide

/-- Vector I3: an unassigned code is accepted, latched and refused. -/
theorem test_step_unassigned :
    (stepped ((mk cfg3 [] [] [] []).present (.request 0xFFFFFFFFFFFFFF#56))).map
      (fun t => (t.apc.status, t.apc.done, t.apc.busy, t.apc.latched)) =
      some (.illegalRequest, true, false, ⟨15#4, ⟨15#4, 255#8, 255#8, 0xFFFFFFFF#32⟩⟩) := by decide

/-- R79: an operation whose call is not answered hangs, and goes on when the answer comes. -/
theorem test_step_hangs :
    let t := after .sync (mk cfg3 [.ok] [] [] [])
    t.apc.busy = true ∧ faulted t = some .noAnswer ∧
    (stepped (t.deliver ⟨[.ok], [.ok 1], [], []⟩)).map seen = some (sent [0xFC#8], .ok, 3, .deasserted) := by decide

/-- Log 14: after an abort inside a bracket the line is left asserted, and an operation without a bracket ends OK with it
so. -/
theorem test_ok_with_line_asserted :
    let t := after (.wreg (fields 2#4 0#8 0#8 0x20#32)) (mk cfg3 [.ok] [.err] [] [.ok .low, .ok .low])
    (after (.waitrdy (fields 0#4 0#8 0#8 0#32)) t).apc.status = .ok ∧
    (after (.waitrdy (fields 0#4 0#8 0#8 0#32)) t).apc.cs = .asserted := by decide

/-! ## The bracket rule (R66) refuses -/

/-- A delay or a second frame in a bracket, a transfer outside one, a reply no frame asked for, a second assert. -/
theorem test_brackets_refuse :
    brackets .outside [.sel .asserted .ok, .tx [0xFC#8] (.ok 1), .delay] = none ∧
    brackets .outside [.sel .asserted .ok, .tx [0xFC#8] (.ok 1), .tx [0x00#8] (.ok 1)] = none ∧
    brackets .outside [.tx [0xFC#8] (.ok 1)] = none ∧
    brackets .outside [.sel .asserted .ok, .tx [0xFC#8] (.ok 1), .rx 3 .err] = none ∧
    brackets .outside [.sel .asserted .ok, .sel .asserted .ok] = none ∧
    brackets .outside (sent [0xFC#8] ++ [.delay] ++ read [0x01#8] [1#8, 2#8, 3#8]) = some .outside := by decide

/-! ## Witnesses: states and operands that meet the hypotheses of each obligation -/

/-- An operation in flight: request `r` accepted, `n` micro-ops done. -/
def inFlight (r : Request) (n : Nat) (s : State) : State :=
  { s with apc := { s.apc.latch r with busy := true, step := n } }

/-- `CMD SYNC`, `ACQ 7`, `RREG 10`, `RDID` as requests. -/
def reqSync : Request := ⟨8#4, fields 0#4 0#8 0xFC#8 0#32⟩
def reqAcq : Request := ⟨6#4, fields 0#4 7#8 0#8 0#32⟩
def reqRreg : Request := ⟨2#4, fields 10#4 0#8 0#8 0#32⟩
def reqRdid : Request := ⟨3#4, fields 0#4 0#8 0#8 0#32⟩

/-- Nothing answered. -/
def silent : State := mk cfg3 [] [] [] []

/-- Three reads answered not-ready, whatever follows. -/
def threeNotReady (c : Cfg) (sel : List SelAnswer) (tx : List TxAnswer) (rx : List RxAnswer) : State :=
  mk c sel tx rx [.ok .high, .ok .high, .ok .high]

/-- `CMD SYNC` with every call answered. -/
def syncDone : State := after .sync (oneFrame 1 [])

theorem witness_DecodeOfEncode : (Instr.writeReg 15#4 [0#8]).encodable = true ∧ (Instr.readReg 15#4 0xFF#8).encodable = true ∧
    (Instr.wreg (fields 15#4 0xFF#8 0xFF#8 0xFFFFFFFF#32)).encodable = true := by decide

theorem witness_EncodeOfDecode : decode (.request 0x8FFFFFFFFFFFFF#56) = .ok (.cmd (fields 15#4 0xFF#8 0xFF#8 0xFFFFFFFF#32)) ∧
    decode (.frame [0x5F#8, 0x00#8, 0x01#8]) = .ok (.writeReg 15#4 [0x01#8]) := by decide

theorem witness_OutsideTheTablesRejected : (unpackRequest 0x90000000000000#56).op.toNat = 9 ∧
    0xFF#8 ∉ operandlessBytes ∧ (0xFF#8).extractLsb' 4 4 ≠ 0x1#4 ∧ (0xFF#8).extractLsb' 4 4 ≠ 0x5#4 := by decide

theorem witness_EncwIsWriteFrame : (10#4).toNat ≤ 10 ∧ 1 ≤ [0xAB#8].length ∧ [0xAB#8].length ≤ 256 ∧
    (List.replicate 256 0#8).length ≤ 256 := ⟨by decide, by decide, by decide, by rw [List.length_replicate]⟩

theorem witness_EncrIsReadFrame : (10#4).toNat ≤ 10 ∧ 1 ≤ 1 ∧ 256 ≤ 256 := by decide

theorem witness_MuxencPairsCommon : (7#8).toNat ≤ 7 := by decide

theorem witness_SampleDecodeLaw : 65536 * (0x7F#8).toNat + 256 * (0xFF#8).toNat + (0xFF#8).toNat < 2 ^ 23 ∧
    2 ^ 23 ≤ 65536 * (0x80#8).toNat + 256 * (0x00#8).toNat + (0x00#8).toNat ∧
    (-8388608 : Int) % 2 ^ 24 = 2 ^ 23 := by decide

theorem witness_AcceptanceLatches : silent.apc.busy = false ∧ requestLegal ⟨1#4, fields 10#4 0#8 0#8 0#32⟩ = true ∧
    requestLegal ⟨1#4, fields 11#4 0#8 0#8 0#32⟩ = false := by decide

theorem witness_IllegalRequestEndsAtOnce :
    let s := silent.present (.request 0x90000000000000#56)
    s.apc.busy = false ∧ s.rst = false ∧ 10 < (fields 11#4 0#8 0#8 0#32).reg.toNat ∧
    (fields 0#4 0#8 0xFF#8 0#32).cmd ∉ operandlessBytes ∧ s.inbox = .request 0x90000000000000#56 :: [] ∧
    9 ≤ (unpackRequest 0x90000000000000#56).op.toNat ∧ (unpackRequest 0x0FFFFFFFFFFFFF#56).op.toNat = 0 := by decide

theorem witness_BusyIgnoresRequests :
    (inFlight reqSync 0 silent).rst = false ∧ (inFlight reqSync 0 silent).apc.busy = true ∧
    faulted (inFlight reqSync 0 silent) = some .noAnswer ∧
    (stepped (inFlight reqSync 0 (oneFrame 1 []))).isSome = true := by decide

theorem witness_ResponseRecord : 5 ≤ (5#3).toNat := by decide

theorem witness_StepRunsPresented : silent.rst = false ∧ silent.apc.busy = false ∧
    (silent.present (.frame [0xFC#8])).inbox = .frame [0xFC#8] :: [] ∧ decode (.frame [0xFC#8]) = .ok .sync := by decide

theorem witness_StepIdleWaits : silent.rst = false ∧ silent.apc.busy = false ∧ silent.inbox = [] := by decide

theorem witness_ResetRegisters : ((inFlight reqAcq 14 silent).driveReset true).rst = true ∧
    (stepped ((inFlight reqAcq 14 silent).driveReset true)).isSome = true := by decide

theorem witness_ResetInputResets : ((inFlight reqAcq 14 silent).driveReset true).rst = true := by decide

theorem witness_UnansweredCallIsStuck : (inFlight reqAcq 2 silent).rst = false ∧ (inFlight reqAcq 2 silent).apc.busy = true ∧
    currentOp (inFlight reqAcq 2 silent) = some .selA ∧ currentOp (inFlight reqAcq 4 silent) = some .selD ∧
    currentOp (inFlight reqAcq 6 silent) = some (.tx [0xFC#8]) ∧ currentOp (inFlight reqAcq 14 silent) = some (.rx 3) ∧
    currentOp (inFlight reqAcq 1 silent) = some (.wpoll .propagate) ∧ (inFlight reqAcq 1 silent).apc.pollCnt < cfg3.pollBound ∧
    silent.env = ⟨[], [], [], []⟩ := by decide

theorem witness_LateAnswersChangeNothing_ended : exec .sync (oneFrame 1 []) = .next syncDone ∧
    exec .sync ((oneFrame 1 []).deliver ⟨[.ok], [], [], []⟩) = .next (after .sync (mk cfg3 [.ok, .ok, .ok] [.ok 1] [] [])) ∧
    syncDone.apc.busy = false := ⟨rfl, rfl, by decide⟩

theorem witness_LateAnswersChangeNothing_hung : exec .sync silent = .next (after .sync silent) ∧
    exec .sync (silent.deliver ⟨[.ok, .ok], [.ok 1], [], []⟩) = .next syncDone ∧
    (after .sync silent).apc.busy = true := ⟨rfl, rfl, by decide⟩

theorem witness_OperationsRunToTheirEnd : (oneFrame 1 []).apc.busy = false ∧ exec .sync (oneFrame 1 []) = .next syncDone ∧
    (inFlight reqSync 0 (oneFrame 1 [])).rst = false ∧ (inFlight reqSync 0 (oneFrame 1 [])).apc.busy = true ∧
    stepped (inFlight reqSync 0 (oneFrame 1 [])) = some syncDone := ⟨rfl, rfl, rfl, rfl, by decide⟩

theorem witness_ParametersAreConstant : (stepped (inFlight reqSync 0 (oneFrame 1 []))).isSome = true := by decide

theorem witness_SelectMicroOp :
    let s := inFlight reqSync 0 (oneFrame 1 [])
    let d := inFlight reqSync 2 (oneFrame 1 [])
    let f := inFlight reqSync 0 (mk cfg3 [.err] [] [] [])
    (s.apc.busy = true ∧ currentOp s = some .selA ∧ s.env.sel = .ok :: [.ok]) ∧
    (d.apc.busy = true ∧ currentOp d = some .selD ∧ d.env.sel = .ok :: [.ok]) ∧
    (f.apc.busy = true ∧ currentOp f = some .selA ∧ f.env.sel = .err :: []) := by decide

theorem witness_TransmitMicroOp :
    let s := inFlight reqSync 1 (oneFrame 1 [])
    let f := inFlight reqSync 1 (mk cfg3 [] [.ok 0] [] [])
    (s.apc.busy = true ∧ currentOp s = some (.tx [0xFC#8]) ∧ s.env.tx = .ok [0xFC#8].length :: []) ∧
    (f.apc.busy = true ∧ currentOp f = some (.tx [0xFC#8]) ∧ f.env.tx = .ok 0 :: [] ∧
      TxAnswer.ok 0 ≠ .ok [0xFC#8].length) := by decide

theorem witness_ReceiveMicroOp :
    let s := inFlight reqAcq 14 (mk cfg3 [] [] [.ok [1#8, 2#8, 3#8]] [])
    let f := inFlight reqAcq 14 (mk cfg3 [] [] [.ok [1#8, 2#8]] [])
    (s.apc.busy = true ∧ currentOp s = some (.rx 3) ∧ s.env.rx = .ok [1#8, 2#8, 3#8] :: [] ∧
      [1#8, 2#8, 3#8].length = 3) ∧
    (f.apc.busy = true ∧ currentOp f = some (.rx 3) ∧ f.env.rx = .ok [1#8, 2#8] :: [] ∧ [1#8, 2#8].length ≠ 3) := by
  decide

theorem witness_CalllessMicroOps : (inFlight reqAcq 0 silent).apc.busy = true ∧
    currentOp (inFlight reqAcq 11 silent) = some .delay ∧ currentOp (inFlight reqAcq 0 silent) = some .wenter ∧
    currentOp (inFlight reqAcq 17 silent) = some .finish := by decide

theorem witness_SetResultMicroOp : (inFlight reqRreg 4 silent).apc.busy = true ∧
    currentOp (inFlight reqRreg 4 silent) = some (.setres .registerByte) ∧
    (inFlight reqRdid 6 silent).apc.busy = true ∧ currentOp (inFlight reqRdid 6 silent) = some (.setres .chipId) ∧
    (inFlight reqAcq 16 silent).apc.busy = true ∧ currentOp (inFlight reqAcq 16 silent) = some (.setres .sample) := by
  decide

/-- One read below the bound, each of the four answers. -/
theorem witness_PollReadsLine :
    let s := fun (c : Cfg) (a : PinAnswer) =>
      inFlight reqAcq 1 { mk c [] [] [] [a] with apc := { Apc.reset with pollCnt := 2#32 } }
    let met := fun (c : Cfg) (tp : TimeoutPolicy) (a : PinAnswer) =>
      (s c a).apc.busy = true ∧ currentOp (s c a) = some (.wpoll tp) ∧ (s c a).apc.pollCnt < (s c a).cfg.pollBound ∧
      (s c a).env.pin = a :: []
    (met cfg3 .propagate (.ok .low) ∧ .low = cfg3.readyLevel) ∧
    (met cfg3 .propagate (.ok .high) ∧ .high = cfg3.notReadyLevel) ∧
    (met cfg3 .propagate .err ∧ cfg3.onPinReadError = .propagateError) ∧
    (met cfgLax .suppress .err ∧ cfgLax.onPinReadError = .treatAsReady) := by decide

theorem witness_PollTimesOut :
    let s := inFlight reqAcq 1 { silent with apc := { Apc.reset with pollCnt := 3#32 } }
    s.apc.busy = true ∧ currentOp s = some (.wpoll .propagate) ∧ s.apc.pollCnt = s.cfg.pollBound ∧
    currentOp { s with cfg := cfgLax } = some (.wpoll .suppress) := by decide

theorem witness_AbortChangesOnlyOutcome :
    let polled := fun (c : Word) => inFlight reqAcq 1 { mk cfg3 [] [] [] [.err] with apc := { Apc.reset with pollCnt := c } }
    let ended := fun (s : State) => (microStep s).map fun t => (t.apc.busy, t.apc.status)
    (currentOp (inFlight reqSync 1 (mk cfg3 [] [.err] [] [])) = some (.tx [0xFC#8]) ∧
      ended (inFlight reqSync 1 (mk cfg3 [] [.err] [] [])) = some (false, .transportError)) ∧
    (currentOp (polled 2#32) = some (.wpoll .propagate) ∧ ended (polled 2#32) = some (false, .transportError)) ∧
    (currentOp (polled 3#32) = some (.wpoll .propagate) ∧ ended (polled 3#32) = some (false, .timeoutError)) ∧
    (currentOp (inFlight reqSync 0 (mk cfg3 [.err] [] [] [])) = some .selA ∧
      ended (inFlight reqSync 0 (mk cfg3 [.err] [] [] [])) = some (false, .transportError)) := by decide

theorem witness_CmdSendsCommand : (oneFrame 1 []).apc.busy = false ∧ reqSync.fields.cmd ∈ operandlessBytes ∧
    (oneFrame 1 []).env.sel = .ok :: .ok :: [] ∧ (oneFrame 1 []).env.tx = .ok 1 :: [] := by decide

theorem witness_WireCommandsSendTheirByte : (Instr.reset, 0xFE#8) ∈ [(Instr.wakeup, 0x00#8), (.readData, 0x01#8),
      (.readDataContinuous, 0x03#8), (.stopContinuous, 0x0F#8), (.selfCal, 0xF0#8), (.selfOffsetCal, 0xF1#8),
      (.selfGainCal, 0xF2#8), (.systemOffsetCal, 0xF3#8), (.systemGainCal, 0xF4#8), (.sync, 0xFC#8), (.standby, 0xFD#8),
      (.reset, 0xFE#8)] ∧
    (oneFrame 1 []).apc.busy = false ∧ (oneFrame 1 []).env.sel = .ok :: .ok :: [] ∧
    (oneFrame 1 []).env.tx = .ok 1 :: [] := by decide

/-- The wait of WAITRDY, WREG, CONFIG, SELCH, RDID and ACQ at the last read below the bound. -/
theorem witness_WaitrdySettles :
    let s := mk cfg3 [] [] [] [.ok .high, .ok .high, .ok .low]
    s.apc.busy = false ∧ s.env.pin = readyAfter s.cfg 2 [] ∧ 2 < s.cfg.pollBound.toNat := by decide

theorem witness_ExplicitWaitsTimeOut :
    let s := threeNotReady cfg3 [] [] []
    s.apc.busy = false ∧ s.env.pin = List.replicate s.cfg.pollBound.toNat (.ok s.cfg.notReadyLevel) ++ [] := by decide

theorem witness_PinErrorPolicies :
    let f := fields 10#4 7#8 0#8 0#32
    let s := fun (c : Cfg) => mk c [] [] [] [.ok .high, .ok .high, .err]
    let met := fun (c : Cfg) => (s c).apc.busy = false ∧ 2 < (s c).cfg.pollBound.toNat ∧
      (s c).env.pin = List.replicate 2 (.ok (s c).cfg.notReadyLevel) ++ .err :: []
    (met cfg3 ∧ cfg3.onPinReadError = .propagateError ∧ f.reg.toNat ≤ 10 ∧ f.pin.toNat ≤ 7 ∧
      fields 10#4 0#8 0#8 0xFF#32 = ⟨10#4, 0#8, 0#8, (0xFF#8).zeroExtend 32⟩ ∧
      fields 0#4 0#8 0#8 0xF0000800#32 = ⟨0#4, 0#8, 0#8, 0xF0#8 ++ 0x00#8 ++ 0x08#8 ++ 0x00#8⟩) ∧
    (met cfgLax ∧ cfgLax.onPinReadError = .treatAsReady) := by decide

theorem witness_WregWritesRegister :
    let s := oneFrame 3 [.ok .high, .ok .high, .ok .low]
    s.apc.busy = false ∧ (fields 10#4 0#8 0#8 0xAB#32).reg.toNat ≤ 10 ∧ 2 < s.cfg.pollBound.toNat ∧
    s.env.pin = readyAfter s.cfg 2 [] ∧ s.env.sel = .ok :: .ok :: [] ∧ s.env.tx = .ok 3 :: [] := by decide

theorem witness_ConfigWritesFourRegisters :
    let s := oneFrame 6 [.ok .low]
    s.apc.busy = false ∧ (fields 0#4 0#8 0#8 0xF0000800#32).dat = 0xF0#8 ++ 0x00#8 ++ 0x08#8 ++ 0x00#8 ∧
    0 < s.cfg.pollBound.toNat ∧ s.env.pin = readyAfter s.cfg 0 [] ∧ s.env.sel = .ok :: .ok :: [] ∧
    s.env.tx = .ok 6 :: [] := by decide

theorem witness_SelchWritesMultiplexer :
    let s := oneFrame 3 [.ok .low]
    s.apc.busy = false ∧ reqAcq.fields.pin.toNat ≤ 7 ∧ 0 < s.cfg.pollBound.toNat ∧ s.env.pin = readyAfter s.cfg 0 [] ∧
    s.env.sel = .ok :: .ok :: [] ∧ s.env.tx = .ok 3 :: [] := by decide

theorem witness_SelchAboveSevenIsNoOp : silent.apc.busy = false ∧ 7 < (fields 0#4 8#8 0#8 0#32).pin.toNat := by decide

theorem witness_RregReadsRegister :
    let s := mk cfg3 [.ok, .ok] [.ok 2] [.ok [0xFF#8]] []
    s.apc.busy = false ∧ reqRreg.fields.reg.toNat ≤ 10 ∧ s.env.sel = .ok :: .ok :: [] ∧ s.env.tx = .ok 2 :: [] ∧
    s.env.rx = .ok [0xFF#8] :: [] := by decide

theorem witness_RdidReadsChipId :
    let s := mk cfg3 [.ok, .ok] [.ok 2] [.ok [0x3F#8]] [.ok .high, .ok .high, .ok .low]
    s.apc.busy = false ∧ 2 < s.cfg.pollBound.toNat ∧ s.env.pin = readyAfter s.cfg 2 [] ∧ s.env.sel = .ok :: .ok :: [] ∧
    s.env.tx = .ok 2 :: [] ∧ s.env.rx = .ok [0x3F#8] :: [] := by decide

theorem witness_AcqReadsSample :
    let s := mk cfg3 (List.replicate 8 .ok) [.ok 3, .ok 1, .ok 1, .ok 1] [.ok [1#8, 2#8, 3#8]] [.ok .low]
    s.apc.busy = false ∧ reqAcq.fields.pin.toNat ≤ 7 ∧ 0 < s.cfg.pollBound.toNat ∧ s.env.pin = readyAfter s.cfg 0 [] ∧
    s.env.sel = List.replicate 8 .ok ++ [] ∧ s.env.tx = .ok 3 :: .ok 1 :: .ok 1 :: .ok 1 :: [] ∧
    s.env.rx = .ok [1#8, 2#8, 3#8] :: [] := by decide

theorem witness_AcqAboveSevenStillAcquires :
    let s := mk cfg3 (List.replicate 6 .ok) [.ok 1, .ok 1, .ok 1] [.ok [1#8, 2#8, 3#8]] []
    s.apc.busy = false ∧ 7 < (8#8).toNat ∧ s.env.sel = List.replicate 6 .ok ++ [] ∧
    s.env.tx = .ok 1 :: .ok 1 :: .ok 1 :: [] ∧ s.env.rx = .ok [1#8, 2#8, 3#8] :: [] := by decide

theorem witness_ReadRegFrameIsRreg :
    let s := mk cfg3 [.ok, .ok] [.ok 2] [.ok [0xFF#8]] []
    s.apc.busy = false ∧ (10#4).toNat ≤ 10 ∧ 10 < (11#4).toNat ∧ s.env.sel = .ok :: .ok :: [] ∧
    s.env.tx = .ok 2 :: [] ∧ s.env.rx = .ok [0xFF#8] :: [] := by decide

theorem witness_WriteRegFrameIsWregOrConfig :
    let s := oneFrame 3 [.ok .low]
    let t := oneFrame 6 [.ok .low]
    (s.apc.busy = false ∧ (10#4).toNat ≤ 10 ∧ 10 < (11#4).toNat ∧ 0 < s.cfg.pollBound.toNat ∧
      s.env.pin = readyAfter s.cfg 0 [] ∧ s.env.sel = .ok :: .ok :: [] ∧ s.env.tx = .ok 3 :: []) ∧
    (t.apc.busy = false ∧ 0 < t.cfg.pollBound.toNat ∧ t.env.pin = readyAfter t.cfg 0 [] ∧
      t.env.sel = .ok :: .ok :: [] ∧ t.env.tx = .ok 6 :: []) := by decide

theorem witness_FramesNeverSentAreRefused :
    let s := silent.present (.frame [0x02#8])
    1#8 ≠ 0#8 ∧ ([1#8, 2#8].length ≠ 1 ∧ ¬ ([1#8, 2#8].length = 4 ∧ 0#4 = 0#4)) ∧
    ([1#8, 2#8, 3#8, 4#8].length ≠ 1 ∧ ¬ ([1#8, 2#8, 3#8, 4#8].length = 4 ∧ 1#4 = 0#4)) ∧
    s.rst = false ∧ s.apc.busy = false ∧ s.inbox = .frame [0x02#8] :: [] ∧
    decode (.frame [0x02#8]) = .error (.undefinedCommand 0x02#8) ∧
    refusedBy s = some (.undefinedFrame (.undefinedCommand 0x02#8)) := by decide

theorem witness_WriteWaitTimeoutAborts :
    let s := threeNotReady cfg3 [] [] []
    (fields 10#4 7#8 0#8 0#32).reg.toNat ≤ 10 ∧ (fields 10#4 7#8 0#8 0#32).pin.toNat ≤ 7 ∧ s.apc.busy = false ∧
    s.cfg.onWriteWaitTimeout = .propagate ∧
    s.env.pin = List.replicate s.cfg.pollBound.toNat (.ok s.cfg.notReadyLevel) ++ [] := by decide

theorem witness_WriteWaitTimeoutSuppressed :
    let s := fun (n : Nat) => threeNotReady cfgLax [.ok, .ok] [.ok n] []
    let met := fun (n : Nat) => (s n).apc.busy = false ∧ (s n).cfg.onWriteWaitTimeout = .suppress ∧
      (s n).env.pin = List.replicate (s n).cfg.pollBound.toNat (.ok (s n).cfg.notReadyLevel) ++ [] ∧
      (s n).env.sel = .ok :: .ok :: [] ∧ (s n).env.tx = .ok n :: []
    (met 3 ∧ (10#4).toNat ≤ 10 ∧ [0x5A#8, 0x00#8, 0x00#8].length = 3 ∧
      [0x5A#8, 0x00#8, 0x00#8] = [0x50#8 ||| (10#4).zeroExtend 8, 0x00#8, (0#32).extractLsb' 0 8]) ∧
    (met 6 ∧ [0x50#8, 0x03#8, 0#8, 0#8, 0#8, 0#8].length = 6) ∧
    (met 3 ∧ (7#8).toNat ≤ 7 ∧ [0x51#8, 0x00#8, (7#8 <<< 4) ||| 0x08#8].length = 3) := by decide

theorem witness_AcqSuppressedTimeoutGivesSample :
    let s := threeNotReady cfgLax (List.replicate 8 .ok) [.ok 3, .ok 1, .ok 1, .ok 1] [.ok [0#8, 0#8, 0x2A#8]]
    s.apc.busy = false ∧ reqAcq.fields.pin.toNat ≤ 7 ∧ s.cfg.onWriteWaitTimeout = .suppress ∧
    s.env.pin = List.replicate s.cfg.pollBound.toNat (.ok s.cfg.notReadyLevel) ++ [] ∧
    s.env.sel = List.replicate 8 .ok ++ [] ∧ s.env.tx = .ok 3 :: .ok 1 :: .ok 1 :: .ok 1 :: [] ∧
    s.env.rx = .ok [0#8, 0#8, 0x2A#8] :: [] := by decide

/-- A state in the middle of an operation that meets the invariant and has a successor. -/
theorem witness_StepKeepsInvariant : Inv (inFlight reqSync 0 (oneFrame 1 [])) ∧
    (stepped (inFlight reqSync 0 (oneFrame 1 []))).isSome = true := by
  refine ⟨⟨by decide, by decide, by decide, by decide, by decide, by decide, by decide, ?_, ?_, by decide, by decide,
    by decide⟩, by decide⟩
  · intro _ l h; cases h
  · intro h; cases h

/-- An operation that ends OK, and one whose failed call leaves its bracket open. -/
theorem witness_TransfersAreBracketed :
    let r := mk cfg3 [.ok] [.err] [] []
    ((oneFrame 1 []).apc.busy = false ∧ exec .sync (oneFrame 1 []) = .next syncDone ∧ syncDone.apc.busy = false ∧
      syncDone.apc.status ≠ .transportError) ∧
    (r.apc.busy = false ∧ exec .sync r = .next (after .sync r) ∧
      brackets .outside (appended r (after .sync r)) = some (.sent [0xFC#8])) :=
  ⟨⟨rfl, rfl, by decide, by decide⟩, rfl, rfl, by decide⟩

theorem witness_OnlyTheSpecifiedCalls : (oneFrame 1 []).apc.busy = false ∧ exec .sync (oneFrame 1 []) = .next syncDone ∧
    Event.sel .asserted .ok ∈ appended (oneFrame 1 []) syncDone := ⟨rfl, rfl, by decide⟩

/-- A failure under each clause: a failed select, and a failed read of the line under TreatAsReady. -/
theorem witness_NothingFollowsAFailure :
    let s := mk cfg3 [.err] [] [] []
    let r := mk cfgLax [] [] [] [.err]
    (s.apc.busy = false ∧ exec .sync s = .next (after .sync s) ∧
      appended s (after .sync s) = [] ++ .sel .asserted .err :: [] ∧ (Event.sel .asserted .err).failed = true) ∧
    (r.apc.busy = false ∧ exec (.waitrdy reqRdid.fields) r = .next (after (.waitrdy reqRdid.fields) r) ∧
      appended r (after (.waitrdy reqRdid.fields) r) = [] ++ .pin 17 .err :: [] ∧ (Event.pin 17 .err).failed = true) :=
  ⟨⟨rfl, rfl, by decide, by decide⟩, rfl, rfl, by decide, by decide⟩

theorem witness_OutcomesFollowTheMatrix : (oneFrame 1 []).apc.busy = false ∧
    exec .sync (oneFrame 1 []) = .next syncDone ∧ syncDone.apc.busy = false := ⟨rfl, rfl, by decide⟩

/-- An operation with a result that ends OK, and one that does not. -/
theorem witness_NoPartialResult :
    let s := mk cfg3 [.ok, .ok] [.ok 2] [.ok [0xFF#8]] []
    let r := mk cfg3 [.err] [] [] []
    (s.apc.busy = false ∧ exec (.rreg reqRreg.fields) s = .next (after (.rreg reqRreg.fields) s) ∧
      (after (.rreg reqRreg.fields) s).apc.busy = false ∧ (after (.rreg reqRreg.fields) s).apc.status = .ok ∧
      producesResult (.rreg reqRreg.fields) = true) ∧
    (r.apc.busy = false ∧ exec .sync r = .next (after .sync r) ∧ (after .sync r).apc.busy = false ∧
      (after .sync r).apc.status ≠ .ok ∧ producesResult .sync = false) :=
  ⟨⟨rfl, rfl, by decide, by decide, rfl⟩, rfl, rfl, by decide, by decide, rfl⟩

/-- Two idle states that differ in their registers. -/
theorem witness_NothingIsCached :
    let i := Instr.rreg reqRreg.fields
    let s := mk cfg3 [.ok, .ok] [.ok 2] [.ok [0xFF#8]] []
    let s' := { s with apc := { s.apc with rxb := ⟨1#8, 2#8, 3#8⟩, res := 5#32, cs := .asserted, status := .timeoutError } }
    s.apc.busy = false ∧ s'.apc.busy = false ∧ s.cfg = s'.cfg ∧ s.env = s'.env ∧ exec i s = .next (after i s) ∧
    exec i s' = .next (after i s') ∧ s.apc ≠ s'.apc ∧ i.wellFormed = true ∧ (after i s).apc.done = true ∧
    (after i s).apc.resValid = true :=
  ⟨rfl, rfl, rfl, rfl, rfl, rfl, by decide, by decide, by decide, by decide⟩

theorem witness_SelchIsWregOfMultiplexer : silent.apc.busy = false ∧ (7#8).toNat ≤ 7 ∧
    (fields 1#4 0#8 0#8 0x78#32).reg = 1#4 ∧
    (fields 1#4 0#8 0#8 0x78#32).dat.extractLsb' 0 8 = (7#8 <<< 4) ||| 0x08#8 := by decide

/-- Each clause: a step that appends selects; an operation that ends OK with a select, and one without from a state with
`cs` Deasserted; SELCH 8, which ends OK with `cs` still Asserted, and SELCH 7, which does not; a step that keeps `Released`,
and one that ends with TransportError inside a bracket. -/
theorem witness_ShadowFollowsSelects :
    let s := inFlight reqSync 0 (oneFrame 1 [])
    let w := Instr.waitrdy reqRdid.fields
    let r := mk cfg3 [] [] [] [.ok .low]
    let f := inFlight reqSync 0 (mk cfg3 [.ok] [.err] [] [])
    let a := (mk cfg3 [.ok, .ok] [.ok 3] [] [.ok .low]).mapApc (fun p => p.setCs .asserted)
    let u := fun n : Byte => after (.selch (fields 0#4 n 0#8 0#32)) a
    (s.rst = false ∧ stepped s = some syncDone ∧ appended s syncDone ≠ []) ∧
    ((oneFrame 1 []).apc.busy = false ∧ exec .sync (oneFrame 1 []) = .next syncDone ∧ syncDone.apc.busy = false ∧
      syncDone.apc.status = .ok ∧ ∃ e ∈ appended (oneFrame 1 []) syncDone, e.isSelect = true) ∧
    (r.apc.busy = false ∧ exec w r = .next (after w r) ∧ (after w r).apc.busy = false ∧ (after w r).apc.status = .ok ∧
      r.apc.cs = .deasserted) ∧
    (a.apc.busy = false ∧ exec (.selch (fields 0#4 8#8 0#8 0#32)) a = .next (u 8#8) ∧
      [7#8, 8#8].map (fun n => ((u n).apc.busy, (u n).apc.status, (u n).apc.cs)) =
        [(false, .ok, .deasserted), (false, .ok, .asserted)]) ∧
    (Released s ∧ Released f ∧ (stepped f).map (fun t => (t.apc.status, t.apc.cs)) = some (.transportError, .asserted)) :=
  ⟨⟨rfl, by decide, by decide⟩, ⟨rfl, rfl, by decide, by decide, by decide⟩, ⟨rfl, rfl, by decide, by decide, by decide⟩,
    ⟨rfl, rfl, by decide⟩, rfl, rfl, by decide⟩

end Sys2Proof.Tests
end

section
/-! SUPPORT. The effect of a micro-op as a function of the registers, uniform in everything the micro-op does not read (spec/10_state.md R31; 20_memory.md R67 to R71; 41_readiness_sync.md R171 to R175), and what an effect does to each register. -/

namespace Sys2Proof.Machine

/-! ## The effect of a micro-op -/

/-- Everything micro-op `m` can do when `p` reads of the readiness line are counted: how it updates the registers, and
the events it appends. The updates name no register value but the ones a micro-op reads. -/
inductive Effect (c : Cfg) (p : Word) : MicroOp → (Apc → Apc) → List Event → Prop where
  | wenter : Effect c p .wenter (fun a => a.enterWait.advance) []
  | settled (tp : TimeoutPolicy) (a : PinAnswer) (hp : p < c.pollBound)
    (ha : a = .ok c.readyLevel ∨ (a = .err ∧ c.onPinReadError = .treatAsReady)) :
    Effect c p (.wpoll tp) (fun r => r.countRead.settle.advance) [.pin c.drdyPinId a]
  | notReady (tp : TimeoutPolicy) (l : Level) (hp : p < c.pollBound) (hl : l ≠ c.readyLevel) :
    Effect c p (.wpoll tp) Apc.countRead [.pin c.drdyPinId (.ok l)]
  | pinFailed (tp : TimeoutPolicy) (hp : p < c.pollBound) (ha : c.onPinReadError = .propagateError) :
    Effect c p (.wpoll tp) (fun r => r.countRead.abort .transportError) [.pin c.drdyPinId .err]
  | timedOut (hp : ¬p < c.pollBound) : Effect c p (.wpoll .propagate) (fun r => r.abort .timeoutError) []
  | suppressed (hp : ¬p < c.pollBound) : Effect c p (.wpoll .suppress) Apc.advance []
  | asserted : Effect c p .selA (fun r => (r.setCs .asserted).advance) [.sel .asserted .ok]
  | assertFailed : Effect c p .selA (fun r => r.abort .transportError) [.sel .asserted .err]
  | deasserted : Effect c p .selD (fun r => (r.setCs .deasserted).advance) [.sel .deasserted .ok]
  | deassertFailed : Effect c p .selD (fun r => r.abort .transportError) [.sel .deasserted .err]
  | sent (frame : List Byte) :
    Effect c p (.tx frame) (fun r => (r.loadTx frame).advance) [.tx frame (.ok frame.length)]
  | txFailed (frame : List Byte) (a : TxAnswer) (ha : a ≠ .ok frame.length) :
    Effect c p (.tx frame) (fun r => (r.loadTx frame).abort .transportError) [.tx frame a]
  | received (bytes : List Byte) :
    Effect c p (.rx bytes.length) (fun r => (r.loadRx bytes).advance) [.rx bytes.length (.ok bytes)]
  | rxFailed (n : Nat) (a : RxAnswer) (ha : ∀ bytes, a = .ok bytes → bytes.length ≠ n) :
    Effect c p (.rx n) (fun r => r.abort .transportError) [.rx n a]
  | delay : Effect c p .delay Apc.advance [.delay]
  | setres (k : ResultKind) : Effect c p (.setres k) (fun r => (r.setRes (resultOf k r.rxb)).advance) []
  | finish : Effect c p .finish Apc.finish []

/-- The state after registers were updated by `f`, answers taken and events appended. -/
def State.effect (s : State) (f : Apc → Apc) (e : Env) (es : List Event) : State :=
  { s with apc := f s.apc, env := e, trace := s.trace ++ es }

/-- A micro-op does the same in two states that agree on the parameters, the answers to come and, where it polls, on the
reads counted: it waits in both, or it has one effect on both. -/
def SameEffect (m : MicroOp) (s s' : State) : Prop :=
  (runMicroOp m s = none ∧ runMicroOp m s' = none) ∨
  ∃ f e es, Effect s.cfg s.apc.pollCnt m f es ∧
    runMicroOp m s = some (s.effect f e es) ∧ runMicroOp m s' = some (s'.effect f e es)

/-- A micro-op that updates registers and makes no call. -/
theorem SameEffect.of_registers {m : MicroOp} {s s' : State} {f : Apc → Apc} (hf : Effect s.cfg s.apc.pollCnt m f [])
    (he : s'.env = s.env) (hs : runMicroOp m s = some (s.mapApc f)) (hs' : runMicroOp m s' = some (s'.mapApc f)) :
    SameEffect m s s' := by
  have key : ∀ u : State, u.env = s.env → u.mapApc f = u.effect f s.env [] := by
    intro u hu
    simp only [State.mapApc, State.effect, List.append_nil, ← hu]
  exact .inr ⟨f, s.env, [], hf, by rw [hs, key s rfl], by rw [hs', key s' he]⟩

theorem sameEffect_select {m : MicroOp} {l : SelLevel} {s s' : State} (hrun : runMicroOp m = selectLine l)
    (hok : Effect s.cfg s.apc.pollCnt m (fun r => (r.setCs l).advance) [.sel l .ok])
    (herr : Effect s.cfg s.apc.pollCnt m (fun r => r.abort .transportError) [.sel l .err])
    (he : s'.env = s.env) : SameEffect m s s' := by
  simp only [SameEffect, hrun, selectLine, he]
  cases s.env.sel with
  | nil => exact .inl ⟨rfl, rfl⟩
  | cons a rest =>
    cases a with
    | ok => exact .inr ⟨_, _, _, hok, rfl, rfl⟩
    | err => exact .inr ⟨_, _, _, herr, rfl, rfl⟩

theorem sameEffect_transmit {frame : List Byte} {s s' : State} (he : s'.env = s.env) :
    SameEffect (.tx frame) s s' := by
  simp only [SameEffect, runMicroOp, transmit, he]
  cases s.env.tx with
  | nil => exact .inl ⟨rfl, rfl⟩
  | cons a rest =>
    cases a with
    | ok n =>
      by_cases hn : n = frame.length
      · subst hn
        simp only [if_true]
        exact .inr ⟨_, _, _, .sent frame, rfl, rfl⟩
      · simp only [hn, if_false]
        exact .inr ⟨_, _, _, .txFailed frame (.ok n) (by simpa using hn), rfl, rfl⟩
    | err => exact .inr ⟨_, _, _, .txFailed frame .err nofun, rfl, rfl⟩

theorem sameEffect_receive {n : Nat} {s s' : State} (he : s'.env = s.env) :
    SameEffect (.rx n) s s' := by
  simp only [SameEffect, runMicroOp, receive, he]
  cases s.env.rx with
  | nil => exact .inl ⟨rfl, rfl⟩
  | cons a rest =>
    cases a with
    | ok bytes =>
      by_cases hn : bytes.length = n
      · subst hn
        simp only [if_true]
        exact .inr ⟨_, _, _, .received bytes, rfl, rfl⟩
      · simp only [hn, if_false]
        exact .inr ⟨_, _, _, .rxFailed n (.ok bytes) (fun _ h => by cases h; exact hn), rfl, rfl⟩
    | err => exact .inr ⟨_, _, _, .rxFailed n .err nofun, rfl, rfl⟩

theorem sameEffect_poll {tp : TimeoutPolicy} {s s' : State} (hc : s'.cfg = s.cfg) (he : s'.env = s.env)
    (hp : s'.apc.pollCnt = s.apc.pollCnt) : SameEffect (.wpoll tp) s s' := by
  by_cases hb : s.apc.pollCnt < s.cfg.pollBound
  · simp only [SameEffect, runMicroOp, poll, hp, hc, he, hb, if_true]
    cases s.env.pin with
    | nil => exact .inl ⟨rfl, rfl⟩
    | cons a rest =>
      refine .inr ?_
      cases a with
      | ok l =>
        by_cases hl : l = s.cfg.readyLevel
        · simp only [pollAnswered, State.mapApc_cfg, State.record_cfg, State.withEnv_cfg, hc, hl, if_true]
          exact ⟨_, _, _, .settled tp _ hb (.inl rfl), rfl, by rw [← hc]; rfl⟩
        · simp only [pollAnswered, State.mapApc_cfg, State.record_cfg, State.withEnv_cfg, hc, hl, if_false]
          exact ⟨_, _, _, .notReady tp l hb hl, rfl, by rw [← hc]; rfl⟩
      | err =>
        simp only [pollAnswered, State.mapApc_cfg, State.record_cfg, State.withEnv_cfg, hc]
        cases ha : s.cfg.onPinReadError with
        | propagateError => exact ⟨_, _, _, .pinFailed tp hb ha, rfl, by rw [← hc]; rfl⟩
        | treatAsReady => exact ⟨_, _, _, .settled tp .err hb (.inr ⟨rfl, ha⟩), rfl, by rw [← hc]; rfl⟩
  · have hs : runMicroOp (.wpoll tp) s = some (pollTimedOut tp s) := if_neg hb
    have hs' : runMicroOp (.wpoll tp) s' = some (pollTimedOut tp s') := if_neg (by rw [hp, hc]; exact hb)
    cases tp with
    | propagate => exact .of_registers (.timedOut hb) he hs hs'
    | suppress => exact .of_registers (.suppressed hb) he hs hs'

/-- A micro-op reads nothing but the parameters, the answers and, where it polls, the count of reads. -/
theorem sameEffect {m : MicroOp} {s s' : State} (hc : s'.cfg = s.cfg) (he : s'.env = s.env)
    (hp : ∀ tp, m = .wpoll tp → s'.apc.pollCnt = s.apc.pollCnt) : SameEffect m s s' := by
  cases m with
  | wenter => exact .of_registers .wenter he rfl rfl
  | wpoll tp => exact sameEffect_poll hc he (hp tp rfl)
  | selA => exact sameEffect_select rfl .asserted .assertFailed he
  | selD => exact sameEffect_select rfl .deasserted .deassertFailed he
  | tx frame => exact sameEffect_transmit he
  | rx n => exact sameEffect_receive he
  | delay => exact .inr ⟨_, s.env, _, .delay, rfl, by rw [← he]; rfl⟩
  | setres k => exact .of_registers (.setres k) he rfl rfl
  | finish => exact .of_registers .finish he rfl rfl

/-- A micro-step is the effect of the current micro-op. -/
theorem microStep_effect {s t : State} (h : microStep s = some t) :
    ∃ m f e es, currentOp s = some m ∧ Effect s.cfg s.apc.pollCnt m f es ∧ t = s.effect f e es := by
  obtain ⟨-, m, hm, hr⟩ := microStep_some h
  rcases sameEffect (m := m) (s := s) rfl rfl fun _ _ => rfl with ⟨hn, -⟩ | ⟨f, e, es, hf, hs, -⟩
  · rw [hn] at hr; cases hr
  · exact ⟨m, f, e, es, hm, hf, Option.some.inj (hr.symm.trans hs)⟩

/-! ## What an effect does to the registers -/

theorem txLen_loaded_le {frame : List Byte} (h : frame.length ∈ [1, 2, 3, 6]) : BitVec.ofNat 3 frame.length ≤ 6#3 := by
  simp only [List.mem_cons, List.not_mem_nil, or_false] at h
  rcases h with h | h | h | h <;> rw [h] <;> decide

section
variable {c : Cfg} {p : Word} {m : MicroOp} {f : Apc → Apc} {es : List Event}

/-- `cs` follows the selects answered Ok (R67). -/
theorem Effect.cs_shadow (h : Effect c p m f es) (a : Apc) : (f a).cs = shadowAfter a.cs es := by
  cases h <;> rfl

/-- A micro-op that succeeds leaves `cs` where the last select asked for it. -/
theorem Effect.cs_advanced (h : Effect c p m f es) {a : Apc} (hs : (f a).step = a.step + 1) {l : List MicroOp}
    {k : SelLevel} (hcs : a.cs = (lastLevel l).getD k) : (f a).cs = (lastLevel (l ++ [m])).getD k := by
  rw [lastLevel_append]
  cases h with
  | asserted | deasserted => rfl
  | notReady | pinFailed | timedOut | assertFailed | deassertFailed | txFailed | rxFailed | finish => simp at hs
  | wenter | settled | suppressed | sent | received | delay | setres => exact hcs

/-- After a micro-op that succeeds, `res_valid` says whether `RES` was written (R71). -/
theorem Effect.resValid_advanced (h : Effect c p m f es) {a : Apc} {l : List MicroOp}
    (hr : a.resValid = writesResult l) : (f a).resValid = writesResult (l ++ [m]) := by
  rw [writesResult_append, ← hr]
  cases h with
  | setres => exact (Bool.or_true _).symm
  | _ => exact (Bool.or_false _).symm

/-- A micro-op that does not advance leaves `cs` and `res_valid` (R31, R172, R267). -/
theorem Effect.unadvanced (h : Effect c p m f es) {a : Apc} (hs : (f a).step = a.step) :
    (f a).cs = a.cs ∧ (f a).resValid = a.resValid := by
  cases h with
  | asserted | deasserted | setres => simp at hs
  | _ => exact ⟨rfl, rfl⟩

/-- `RES` is written with `res_valid` only, and `res_valid` is not cleared (R71). -/
theorem Effect.res_kept (h : Effect c p m f es) {a : Apc} (hr : (f a).resValid = false) :
    (f a).res = a.res ∧ a.resValid = false := by
  cases h with
  | setres => cases hr
  | _ => exact ⟨rfl, hr⟩

theorem Effect.pollCnt_le {a : Apc} (h : Effect c a.pollCnt m f es) (ha : a.pollCnt ≤ c.pollBound) :
    (f a).pollCnt ≤ c.pollBound := by
  cases h with
  | wenter => exact BitVec.le_def.2 (Nat.zero_le _)
  | settled _ _ hp | notReady _ _ hp | pinFailed _ hp => exact countRead_le hp
  | _ => exact ha

/-- A frame has at most six bytes (R68). -/
theorem Effect.txLen_le (h : Effect c p m f es) {a : Apc} (ha : a.txLen ≤ 6#3)
    (hfr : ∀ frame, m = .tx frame → frame.length ∈ [1, 2, 3, 6]) : (f a).txLen ≤ 6#3 := by
  cases h with
  | sent frame | txFailed frame => exact txLen_loaded_le (hfr frame rfl)
  | _ => exact ha

/-- Only a select micro-op appends a select. -/
theorem Effect.isSelect (h : Effect c p m f es) (he : ∃ e ∈ es, e.isSelect = true) : m = .selA ∨ m = .selD := by
  cases h with
  | asserted | assertFailed => exact .inl rfl
  | deasserted | deassertFailed => exact .inr rfl
  | _ => simp [Event.isSelect] at he

end

/-! ## Micro-ops done, after a micro-step -/

section
variable {s t : State} {m : MicroOp}

theorem opsDone_advanced (hf : MicroFrame s t) (hm : currentOp s = some m) (hs : t.apc.step = s.apc.step + 1) :
    opsDone t = opsDone s ++ [m] := by
  rw [opsDone, hf.program, hs, opsDone_succ hm]

theorem opsDone_stayed (hf : MicroFrame s t) (hs : t.apc.step = s.apc.step) : opsDone t = opsDone s := by
  rw [opsDone, hf.program, hs, opsDone]

theorem currentOp_mem (hm : currentOp s = some m) : m ∈ programOf s.cfg s.apc := List.mem_of_getElem? hm

end

/-! ## A run keeps the parameters, the latches and the inputs, and appends to the trace -/

/-- What relates the two ends of a run. -/
structure RunFrame (s t : State) : Prop where
  cfg : t.cfg = s.cfg
  inbox : t.inbox = s.inbox
  rst : t.rst = s.rst
  latched : t.apc.latched = s.apc.latched
  trace : s.trace <+: t.trace

theorem RunFrame.program {s t : State} (h : RunFrame s t) : programOf t.cfg t.apc = programOf s.cfg s.apc := by
  rw [h.cfg]; exact programOf_congr_latched h.latched

theorem runOp_frame (s : State) : RunFrame s (runOp s) :=
  runMicro_rel (fun _ => ⟨rfl, rfl, rfl, rfl, List.prefix_rfl⟩) (fun _ _ _ h hu => by
    obtain ⟨-, hf, -⟩ := microStep_spec hu
    obtain ⟨es, he, -⟩ := hf.trace
    exact ⟨hf.cfg.trans h.cfg, hf.inbox.trans h.inbox, hf.rst.trans h.rst, hf.latched.trans h.latched,
      h.trace.trans ⟨es, he.symm⟩⟩) _ s

/-- What a micro-step keeps, an operation keeps. -/
theorem runOp_keeps {P : State → Prop} (hstep : ∀ s t, P s → microStep s = some t → P t) {s : State} (h : P s) :
    P (runOp s) := runMicro_keeps hstep _ s h

end Sys2Proof.Machine
end

section
/-! SUPPORT. Instructions as requests, and everything a step can do (spec/10_state.md R28 to R30, R38). -/

namespace Sys2Proof.Machine

/-! ## Instructions are requests (log 1) -/

/-- The request an instruction means; none for a frame the APC never sends (R118, R142; log 11). -/
def requestOf : Instr → Option Request
  | .wakeup => some (cmdRequest 0x00#8)
  | .readData => some (cmdRequest 0x01#8)
  | .readDataContinuous => some (cmdRequest 0x03#8)
  | .stopContinuous => some (cmdRequest 0x0F#8)
  | .readReg reg c => if c = 0#8 then some (rregRequest reg) else none
  | .writeReg reg [v] => some (wregRequest reg v)
  | .writeReg reg [v0, v1, v2, v3] => if reg = 0#4 then some (configRequest v0 v1 v2 v3) else none
  | .writeReg _ _ => none
  | .selfCal => some (cmdRequest 0xF0#8)
  | .selfOffsetCal => some (cmdRequest 0xF1#8)
  | .selfGainCal => some (cmdRequest 0xF2#8)
  | .systemOffsetCal => some (cmdRequest 0xF3#8)
  | .systemGainCal => some (cmdRequest 0xF4#8)
  | .sync => some (cmdRequest 0xFC#8)
  | .standby => some (cmdRequest 0xFD#8)
  | .reset => some (cmdRequest 0xFE#8)
  | .wreg f => some ⟨1#4, f⟩
  | .rreg f => some ⟨2#4, f⟩
  | .rdid f => some ⟨3#4, f⟩
  | .waitrdy f => some ⟨4#4, f⟩
  | .selch f => some ⟨5#4, f⟩
  | .acq f => some ⟨6#4, f⟩
  | .config f => some ⟨7#4, f⟩
  | .cmd f => some ⟨8#4, f⟩

theorem requestOf_readReg {reg : RegAddr} {c : Byte} {r : Request} (h : requestOf (.readReg reg c) = some r) :
    c = 0#8 ∧ r = rregRequest reg := by
  by_cases hc : c = 0#8
  · rw [requestOf, if_pos hc] at h
    exact ⟨hc, (Option.some.inj h).symm⟩
  · rw [requestOf, if_neg hc] at h
    cases h

theorem requestOf_writeReg {reg : RegAddr} {vs : List Byte} {r : Request} (h : requestOf (.writeReg reg vs) = some r) :
    (∃ v, vs = [v] ∧ r = wregRequest reg v) ∨
    ∃ v0 v1 v2 v3, vs = [v0, v1, v2, v3] ∧ reg = 0#4 ∧ r = configRequest v0 v1 v2 v3 := by
  match vs with
  | [v] => exact .inl ⟨v, rfl, (Option.some.inj h).symm⟩
  | [v0, v1, v2, v3] =>
    have h' : reg = 0#4 ∧ configRequest v0 v1 v2 v3 = r := by simpa [requestOf] using h
    exact .inr ⟨v0, v1, v2, v3, rfl, h'.1, h'.2.symm⟩
  | [] | [_, _] | [_, _, _] | _ :: _ :: _ :: _ :: _ :: _ => cases h

/-- An instruction is the operation its request starts. -/
theorem exec_eq_request (i : Instr) (s : State) :
    exec i s = (requestOf i).elim (.refused .frameNeverSent) fun r => .next (runRequest r s) := by
  cases i with
  | readReg reg c =>
    show execReadReg reg c s = _
    by_cases hc : c = 0#8 <;> simp [execReadReg, requestOf, hc]
  | writeReg reg vs =>
    match vs with
    | [v0, v1, v2, v3] =>
      show (if reg = 0#4 then _ else _) = _
      by_cases hr : reg = 0#4 <;> simp [requestOf, hr]
    | [] | [_] | [_, _] | [_, _, _] | _ :: _ :: _ :: _ :: _ :: _ => rfl
  | _ => rfl

theorem exec_next {i : Instr} {s t : State} (h : exec i s = .next t) :
    ∃ r, requestOf i = some r ∧ t = runRequest r s := by
  rw [exec_eq_request] at h
  cases hr : requestOf i with
  | none => rw [hr] at h; cases h
  | some r => rw [hr] at h; cases h; exact ⟨r, rfl, rfl⟩

/-- What an instruction does to an idle APC: its operation runs from acceptance, or its request is refused (R30). -/
theorem exec_idle {i : Instr} {s t : State} (hb : s.apc.busy = false) (h : exec i s = .next t) :
    ∃ r, requestOf i = some r ∧ ((requestLegal r = true ∧ t = runOp (accepted r s)) ∨
      (requestLegal r = false ∧ t = refusedIllegal r s)) := by
  obtain ⟨r, hr, rfl⟩ := exec_next h
  refine ⟨r, hr, ?_⟩
  cases hl : requestLegal r with
  | true => exact .inl ⟨rfl, runRequest_legal hb hl⟩
  | false => exact .inr ⟨rfl, runRequest_illegal hb hl⟩

/-- A request that starts idle runs from its acceptance, which ends it at once when it is illegal. -/
theorem runRequest_idle {r : Request} {s : State} (hb : s.apc.busy = false) : runRequest r s = runOp (accept r s) := by
  simp [runRequest, hb]

/-! ## Everything a step can do -/

/-- Acceptance touches neither the parameters, the reset input, the trace nor `cs` (R30). -/
theorem accept_frame (r : Request) (s : State) : (accept r s).cfg = s.cfg ∧ (accept r s).rst = s.rst ∧
    (accept r s).trace = s.trace ∧ (accept r s).apc.cs = s.apc.cs := by
  cases hb : s.apc.busy with
  | true => rw [accept_busy hb]; exact ⟨rfl, rfl, rfl, rfl⟩
  | false =>
    cases hl : requestLegal r with
    | true => rw [accept_legal hb hl]; exact ⟨rfl, rfl, rfl, rfl⟩
    | false => rw [accept_illegal hb hl]; exact ⟨rfl, rfl, rfl, rfl⟩

/-- A request word that does not decode is illegal (R114). -/
theorem undecoded_illegal {w : ReqWord} {e : DecodeError} (h : decode (.request w) = .error e) :
    requestLegal (unpackRequest w) = false := by
  refine Bool.eq_false_iff.2 fun hl => ?_
  have hop : 1 ≤ (unpackRequest w).op.toNat ∧ (unpackRequest w).op.toNat ≤ 8 := by
    rcases (requestLegal_iff _).1 hl with ⟨h12, -⟩ | h37 | ⟨h8, -⟩ <;> omega
  obtain ⟨hlo, hhi⟩ := hop
  simp only [decode, decodeRequest] at h
  generalize (unpackRequest w).op.toNat = n at h hlo hhi
  interval_cases n <;> cases h

/-- R300: with the reset input active, a step is reset. -/
theorem step_reset {s : State} (hr : s.rst = true) : step s = .next s.applyReset := by rw [step, if_pos hr]

/-- An idle APC with nothing presented waits (R300). -/
theorem step_waits {s : State} (hr : s.rst = false) (hb : s.apc.busy = false) (hin : s.inbox = []) :
    step s = .next s := by
  rw [step, if_neg (by simp [hr]), if_neg (by simp [hb]), hin]

/-- What is presented and decodes is run. -/
theorem step_presented {s : State} {p : Presented} {rest : List Presented} {i : Instr} (hr : s.rst = false)
    (hb : s.apc.busy = false) (hin : s.inbox = p :: rest) (hd : decode p = .ok i) :
    step s = exec i { s with inbox := rest } := by
  rw [step, if_neg (by simp [hr]), if_neg (by simp [hb]), hin]
  simp only [takePresented, hd]

/-- A step is reset, or it runs the APC from where it stands: from the operation in flight, from the acceptance of what
was presented first, or from the idle APC, which waits. -/
theorem step_next {s t : State} (h : step s = .next t) :
    (s.rst = true ∧ t = s.applyReset) ∨
    (s.rst = false ∧ ∃ u, t = runOp u ∧ (u = s ∨
      ∃ p rest r, s.apc.busy = false ∧ s.inbox = p :: rest ∧ u = accept r { s with inbox := rest })) := by
  by_cases hr : s.rst = true
  · rw [step_reset hr] at h
    cases h
    exact .inl ⟨hr, rfl⟩
  · have hr : s.rst = false := Bool.eq_false_iff.2 hr
    refine .inr ⟨hr, ?_⟩
    cases hb : s.apc.busy with
    | true =>
      rw [step_busy hr hb, resume] at h
      cases hm : microStep s with
      | none => rw [hm] at h; cases h
      | some u =>
        rw [hm] at h
        cases h
        exact ⟨s, (Leads.one hm).runOp_trans.symm, .inl rfl⟩
    | false =>
      cases hin : s.inbox with
      | nil =>
        rw [step_waits hr hb hin] at h
        cases h
        exact ⟨s, (runOp_idle hb).symm, .inl rfl⟩
      | cons p rest =>
        have hb' : { s with inbox := rest }.apc.busy = false := hb
        obtain ⟨r, rfl⟩ : ∃ r, t = runOp (accept r { s with inbox := rest }) := by
          cases hd : decode p with
          | ok i =>
            rw [step_presented hr hb hin hd] at h
            obtain ⟨r, -, rfl⟩ := exec_next h
            exact ⟨r, runRequest_idle hb'⟩
          | error e =>
            rw [step_undecoded hr hb hin hd] at h
            cases p with
            | frame bytes => cases h
            | request w =>
              cases h
              exact ⟨unpackRequest w, by
                rw [accept_illegal hb' (undecoded_illegal hd), runOp_idle (by exact hb)]⟩
        exact ⟨_, rfl, .inr ⟨p, rest, r, rfl, rfl, rfl⟩⟩

end Sys2Proof.Machine
end

section
/-! PROOFS. The statements on acceptance, steps, reset and the fuel of a run (spec/10_state.md R28 to R32, R38). -/

namespace Sys2Proof.Machine

/-! ## Acceptance, steps and reset, as stated -/

/-- Settles O11, by the cases of `requestLegal` on the code. -/
theorem legalRequests : Obligations.LegalRequests := by
  intro r
  rw [requestLegal_iff, isOperandless_iff]

/-- Settles O12: the two branches of acceptance. -/
theorem acceptanceLatches : Obligations.AcceptanceLatches := fun _ _ hb => ⟨accept_legal hb, accept_illegal hb⟩

/-- Settles O16: the branch of `step` for a request that decodes. -/
theorem stepRunsPresented : Obligations.StepRunsPresented := fun _ _ _ _ => step_presented

/-- Settles O18: a step under reset is `applyReset`. -/
theorem resetRegisters : Obligations.ResetRegisters := by
  refine ⟨fun s t hr hs => ?_, fun s hr => ⟨_, step_reset hr⟩⟩
  rw [step_reset hr] at hs
  cases hs
  exact ⟨rfl, rfl, rfl, rfl, rfl, rfl, rfl, rfl, rfl, rfl, rfl, rfl, rfl, rfl, rfl, rfl, rfl, rfl, rfl⟩

/-- Settles O22: whatever a run starts from, its fuel is enough. -/
theorem operationsRunToTheirEnd : Obligations.OperationsRunToTheirEnd := by
  refine ⟨fun i s t hb h => ?_, fun s t hr hb h => ?_⟩
  · obtain ⟨r, -, rfl⟩ := exec_next h
    rw [runRequest_idle hb]
    exact runOp_quiet _
  · rcases step_next h with ⟨hr', -⟩ | ⟨-, u, rfl, -⟩
    · cases hr.symm.trans hr'
    · exact runOp_quiet u

/-- Settles O23: reset, acceptance and runs keep the parameters and the reset input, and only append to the trace. -/
theorem parametersAreConstant : Obligations.ParametersAreConstant := by
  intro s t hs
  rcases step_next hs with ⟨-, rfl⟩ | ⟨-, u, rfl, hu⟩
  · exact ⟨rfl, rfl, [], by simp⟩
  · have hframe : u.cfg = s.cfg ∧ u.rst = s.rst ∧ u.trace = s.trace := by
      rcases hu with rfl | ⟨p, rest, r, -, -, rfl⟩
      · exact ⟨rfl, rfl, rfl⟩
      · obtain ⟨hcfg, hrst, htrace, -⟩ := accept_frame r { s with inbox := rest }
        exact ⟨hcfg, hrst, htrace⟩
    obtain ⟨hcfg, hrst, htrace⟩ := hframe
    have hrun := runOp_frame u
    obtain ⟨es, hes⟩ := hrun.trace
    exact ⟨hrun.cfg.trans hcfg, hrun.rst.trans hrst, es, by rw [← hes, htrace]⟩

end Sys2Proof.Machine
end

section
/-! PROOFS. The invariant of the registers (spec/10_state.md R22, R25, R27). -/

namespace Sys2Proof.Machine

/-! ## What an operation has done to `cs` and to the result (R25, R27) -/

/-- `cs` is where the last select of the operation put it, `k` before the first, and still is when the operation ends
OK. -/
structure LineTracks (k : SelLevel) (s : State) : Prop where
  running : s.apc.busy = true → s.apc.cs = (lastLevel (opsDone s)).getD k
  ended : s.apc.busy = false → s.apc.status = .ok → s.apc.cs = (lastLevel (programOf s.cfg s.apc)).getD k

theorem LineTracks.of_running {k : SelLevel} {s : State} (hb : s.apc.busy = true)
    (h : s.apc.cs = (lastLevel (opsDone s)).getD k) : LineTracks k s :=
  ⟨fun _ => h, fun hi => (by cases hb.symm.trans hi)⟩

theorem LineTracks.of_ended {k : SelLevel} {s : State} (hb : s.apc.busy = false)
    (h : s.apc.status = .ok → s.apc.cs = (lastLevel (programOf s.cfg s.apc)).getD k) : LineTracks k s :=
  ⟨fun hi => (by cases hb.symm.trans hi), fun _ => h⟩

theorem LineTracks.accepted (r : Request) (s : State) : LineTracks s.apc.cs (accepted r s) :=
  .of_running rfl rfl

theorem LineTracks.microStep {k : SelLevel} {s t : State} (h : LineTracks k s) (hs : microStep s = some t) :
    LineTracks k t := by
  obtain ⟨hb, hframe, hprog⟩ := microStep_spec hs
  obtain ⟨m, f, e, es, hm, hf, rfl⟩ := microStep_effect hs
  have hcs := h.running hb
  cases hprog with
  | advanced hstep hb' _ _ _ =>
    refine .of_running (hb'.trans hb) ?_
    rw [opsDone_advanced hframe hm hstep]
    exact hf.cs_advanced hstep hcs
  | stayed hstep hb' _ _ _ _ =>
    refine .of_running (hb'.trans hb) ?_
    rw [opsDone_stayed hframe hstep]
    exact (hf.unadvanced hstep).1.trans hcs
  | aborted _ hb' _ hst =>
    refine .of_ended hb' fun hok => ?_
    rcases hst with hst | hst <;> cases hok.symm.trans hst
  | finished hstep hb' _ _ hm =>
    refine .of_ended hb' fun _ => ?_
    rw [hframe.program, program_of_finish hm, lastLevel_append]
    exact (hf.unadvanced hstep).1.trans hcs

/-- `res_valid` says whether the operation wrote `RES`, which is `v` until then, and is 0 after an error. -/
structure ResultTracks (v : Word) (s : State) : Prop where
  kept : s.apc.resValid = false → s.apc.res = v
  running : s.apc.busy = true → s.apc.done = false ∧ s.apc.resValid = writesResult (opsDone s)
  ended : s.apc.busy = false → s.apc.done = true ∧
    s.apc.resValid = (s.apc.status == .ok && writesResult (programOf s.cfg s.apc))

theorem ResultTracks.of_running {v : Word} {s : State} (hk : s.apc.resValid = false → s.apc.res = v)
    (hb : s.apc.busy = true) (hd : s.apc.done = false) (hr : s.apc.resValid = writesResult (opsDone s)) :
    ResultTracks v s :=
  ⟨hk, fun _ => ⟨hd, hr⟩, fun hi => (by cases hb.symm.trans hi)⟩

theorem ResultTracks.of_ended {v : Word} {s : State} (hk : s.apc.resValid = false → s.apc.res = v)
    (hb : s.apc.busy = false) (hd : s.apc.done = true)
    (hr : s.apc.resValid = (s.apc.status == .ok && writesResult (programOf s.cfg s.apc))) : ResultTracks v s :=
  ⟨hk, fun hi => (by cases hb.symm.trans hi), fun _ => ⟨hd, hr⟩⟩

theorem ResultTracks.accepted (r : Request) (s : State) : ResultTracks s.apc.res (accepted r s) :=
  .of_running (fun _ => rfl) rfl rfl rfl

theorem ResultTracks.microStep {v : Word} {s t : State} (h : ResultTracks v s) (hs : microStep s = some t) :
    ResultTracks v t := by
  obtain ⟨hb, hframe, hprog⟩ := microStep_spec hs
  obtain ⟨m, f, e, es, hm, hf, rfl⟩ := microStep_effect hs
  obtain ⟨hd, hr⟩ := h.running hb
  have hkept : (f s.apc).resValid = false → (f s.apc).res = v := fun h0 =>
    (hf.res_kept h0).1.trans (h.kept (hf.res_kept h0).2)
  cases hprog with
  | advanced hstep hb' hd' _ _ =>
    refine .of_running hkept (hb'.trans hb) (hd'.trans hd) ?_
    rw [opsDone_advanced hframe hm hstep]
    exact hf.resValid_advanced hr
  | stayed hstep hb' hd' _ _ _ =>
    refine .of_running hkept (hb'.trans hb) (hd'.trans hd) ?_
    rw [opsDone_stayed hframe hstep]
    exact (hf.unadvanced hstep).2.trans hr
  | aborted hstep hb' hd' hst =>
    have hnf : m ≠ .finish := by
      rintro rfl
      cases hf
      rcases hst with hst | hst <;> cases hst
    have hr' : (f s.apc).resValid = false :=
      ((hf.unadvanced hstep).2.trans hr).trans (result_not_written hm hnf)
    refine .of_ended hkept hb' hd' (hr'.trans ?_)
    rcases hst with hst | hst <;> rw [hst] <;> rfl
  | finished hstep hb' hd' hst hm =>
    refine .of_ended hkept hb' hd' ?_
    rw [hst, hframe.program, program_of_finish hm, writesResult_append]
    exact ((hf.unadvanced hstep).2.trans hr).trans (by simp)

/-! ## The invariant of the registers -/

theorem Inv.lineTracks {s : State} (h : Inv s) (hb : s.apc.busy = true) : LineTracks s.apc.cs s := by
  refine .of_running hb ?_
  cases hl : lastLevel (opsDone s) with
  | none => rfl
  | some l => exact h.csFollows hb l hl

theorem Inv.resultTracks {s : State} (h : Inv s) (hb : s.apc.busy = true) : ResultTracks s.apc.res s :=
  .of_running (fun _ => rfl) hb (h.notDone hb) (h.resultFollows hb)

/-- The clauses on `cs` and the result follow from what the operation has done; the others are the sequencer's. -/
theorem Inv.of_tracks {k : SelLevel} {v : Word} {s : State} (hline : LineTracks k s) (hres : ResultTracks v s)
    (hin : s.apc.busy = true → s.apc.step < (programOf s.cfg s.apc).length)
    (hlegal : s.apc.busy = true → requestLegal s.apc.latched = true) (hpoll : s.apc.pollCnt ≤ s.cfg.pollBound)
    (hst : s.apc.status ≠ .invalidChannel) (hstep : s.apc.step ≤ 17) (htx : s.apc.txLen ≤ 6#3) : Inv s where
  inProgram := hin
  legal := hlegal
  notDone hb := (hres.running hb).1
  pollBounded := hpoll
  noInvalidChannel := hst
  stepBounded := hstep
  txLenBounded := htx
  csFollows hb l hl := by rw [hline.running hb, hl]; rfl
  csReleased hb _ hok l hl := by rw [hline.ended hb hok, hl]; rfl
  resultFollows hb := (hres.running hb).2
  resultComplete hb _ hok := by rw [(hres.ended hb).2, hok]; rfl
  noPartialResult hd hne := by
    cases hb : s.apc.busy with
    | true => cases hd.symm.trans (hres.running hb).1
    | false => rw [(hres.ended hb).2, beq_eq_false_iff_ne.2 hne]; rfl

/-- The invariant holds of the registers at their reset values, under any parameters. -/
theorem inv_applyReset (s : State) : Inv s.applyReset where
  inProgram hb := nomatch hb
  legal hb := nomatch hb
  notDone hb := nomatch hb
  pollBounded := BitVec.le_def.2 (Nat.zero_le _)
  noInvalidChannel := by simp [Apc.reset]
  stepBounded := Nat.zero_le _
  txLenBounded := BitVec.le_def.2 (Nat.zero_le _)
  csFollows hb := nomatch hb
  csReleased _ hd := nomatch hd
  resultFollows hb := nomatch hb
  resultComplete _ hd := nomatch hd
  noPartialResult hd := nomatch hd

theorem Inv.microStep {s t : State} (h : Inv s) (hs : microStep s = some t) : Inv t := by
  obtain ⟨hb, hframe, hprog⟩ := microStep_spec hs
  have hline := (h.lineTracks hb).microStep hs
  have hresult := (h.resultTracks hb).microStep hs
  obtain ⟨m, f, e, es, hm, hf, rfl⟩ := microStep_effect hs
  have hin : (f s.apc).step < (programOf s.cfg s.apc).length := by
    cases hprog with
    | advanced hstep _ _ _ hnf =>
      exact hstep ▸ step_lt_of_not_finish hm (by rintro rfl; exact hnf hm)
    | stayed hstep | aborted hstep | finished hstep => exact hstep ▸ h.inProgram hb
  have hst : (f s.apc).status ≠ .invalidChannel := by
    cases hprog with
    | advanced _ _ _ hst | stayed _ _ _ hst => exact hst ▸ h.noInvalidChannel
    | aborted _ _ _ hst => rcases hst with hst | hst <;> exact hst ▸ (by decide)
    | finished _ _ _ hst => exact hst ▸ (by decide)
  refine .of_tracks hline hresult (fun _ => ?_) (fun _ => ?_) (hf.pollCnt_le h.pollBounded) hst ?_ ?_
  · rw [hframe.program]; exact hin
  · rw [hframe.latched]; exact h.legal hb
  · have := programOf_length_le s.cfg s.apc
    exact Nat.le_of_lt_succ (hin.trans_le this)
  · exact hf.txLen_le h.txLenBounded fun frame hfr => program_frame_length (hfr ▸ currentOp_mem hm)

theorem Inv.accept {s : State} (h : Inv s) (r : Request) : Inv (accept r s) := by
  cases hb : s.apc.busy with
  | true => rw [accept_busy hb]; exact h
  | false =>
    cases hl : requestLegal r with
    | true =>
      rw [accept_legal hb hl]
      exact .of_tracks (.accepted r s) (.accepted r s)
        (fun _ => List.length_pos_of_ne_nil (programOf_ne_nil hl)) (fun _ => hl) h.pollBounded h.noInvalidChannel
        (Nat.zero_le _) h.txLenBounded
    | false =>
      rw [accept_illegal hb hl]
      exact .of_tracks (k := s.apc.cs) (v := s.apc.res) (.of_ended hb (fun hok => nomatch hok))
        (.of_ended (fun _ => rfl) hb rfl rfl) (fun hi => (by cases hb.symm.trans hi))
        (fun hi => (by cases hb.symm.trans hi)) h.pollBounded (fun hi => nomatch hi) h.stepBounded h.txLenBounded

/-- The invariant does not look at what is presented. -/
theorem Inv.withInbox {s : State} (h : Inv s) (ps : List Presented) : Inv { s with inbox := ps } :=
  ⟨h.inProgram, h.legal, h.notDone, h.pollBounded, h.noInvalidChannel, h.stepBounded, h.txLenBounded, h.csFollows,
    h.csReleased, h.resultFollows, h.resultComplete, h.noPartialResult⟩

theorem Inv.runOp {s : State} (h : Inv s) : Inv (runOp s) := runOp_keeps (fun _ _ => Inv.microStep) h

/-- Settles O52: reset establishes the invariant; acceptance and every micro-step keep it. -/
theorem stepKeepsInvariant : Obligations.StepKeepsInvariant := by
  intro s t h hs
  rcases step_next hs with ⟨-, rfl⟩ | ⟨-, u, rfl, rfl | ⟨p, rest, r, -, -, rfl⟩⟩
  · exact inv_applyReset s
  · exact h.runOp
  · exact ((h.withInbox rest).accept r).runOp

/-- Settles O51: the registers of `State.reset` are those a reset leaves. -/
theorem resetHasInvariant : Obligations.ResetHasInvariant := inv_applyReset State.reset

end Sys2Proof.Machine
end

section
/-! PROOFS. Results and the shadow of the select line, instruction by instruction (spec/10_state.md R25, R27). -/

namespace Sys2Proof.Machine

/-! ## Per instruction: the code of the request, its legality, whether it produces a result -/

theorem producesResult_eq {i : Instr} {r : Request} (h : requestOf i = some r) :
    producesResult i = (r.op == 2#4 || r.op == 3#4 || r.op == 6#4) := by
  cases i with
  | readReg reg c => obtain ⟨-, rfl⟩ := requestOf_readReg h; rfl
  | writeReg reg vs => obtain ⟨v, -, rfl⟩ | ⟨v0, v1, v2, v3, -, -, rfl⟩ := requestOf_writeReg h <;> rfl
  | _ => cases h; rfl

theorem waitrdy_of_op {i : Instr} {r : Request} (h : requestOf i = some r) (ho : r.op = 4#4) : ∃ f, i = .waitrdy f := by
  cases i with
  | waitrdy f => exact ⟨f, rfl⟩
  | readReg reg c => obtain ⟨-, rfl⟩ := requestOf_readReg h; cases ho
  | writeReg reg vs => obtain ⟨v, -, rfl⟩ | ⟨v0, v1, v2, v3, -, -, rfl⟩ := requestOf_writeReg h <;> cases ho
  | _ => cases h; cases ho

theorem selch_of_op {i : Instr} {r : Request} (h : requestOf i = some r) (ho : r.op = 5#4) : i = .selch r.fields := by
  cases i with
  | selch f => cases h; rfl
  | readReg reg c => obtain ⟨-, rfl⟩ := requestOf_readReg h; cases ho
  | writeReg reg vs => obtain ⟨v, -, rfl⟩ | ⟨v0, v1, v2, v3, -, -, rfl⟩ := requestOf_writeReg h <;> cases ho
  | _ => cases h; cases ho

theorem regInRange_legal {reg : RegAddr} (h : regInRange reg = true) : reg.toNat ≤ 10 := by
  simpa [regInRange] using h

/-- The request of a well-formed instruction is legal (R29). -/
theorem requestLegal_of_wellFormed {i : Instr} {r : Request} (h : requestOf i = some r) (hw : i.wellFormed = true) :
    requestLegal r = true := by
  cases i with
  | wreg f => cases h; exact (requestLegal_iff _).2 (.inl ⟨.inl rfl, regInRange_legal hw⟩)
  | rreg f => cases h; exact (requestLegal_iff _).2 (.inl ⟨.inr rfl, regInRange_legal hw⟩)
  | cmd f =>
    cases h
    have hc : f.cmd ∈ operandlessBytes := List.contains_iff_mem.1 hw
    exact (requestLegal_iff _).2 (.inr (.inr ⟨rfl, (isOperandless_iff _).2 hc⟩))
  | readReg reg c =>
    obtain ⟨-, rfl⟩ := requestOf_readReg h
    obtain ⟨hreg, -⟩ := (Bool.and_eq_true _ _).mp hw
    exact (requestLegal_iff _).2 (.inl ⟨.inr rfl, regInRange_legal hreg⟩)
  | writeReg reg vs =>
    obtain ⟨v, -, rfl⟩ | ⟨v0, v1, v2, v3, -, -, rfl⟩ := requestOf_writeReg h
    · obtain ⟨hreg, -⟩ := (Bool.and_eq_true _ _).mp hw
      exact (requestLegal_iff _).2 (.inl ⟨.inl rfl, regInRange_legal hreg⟩)
    · rfl
  | _ => cases h; rfl

/-! ## Per micro-program: whether it writes a result, whether it selects -/

/-- RREG, RDID and ACQ write `RES` (R27). -/
theorem writesResult_program {c : Cfg} {a : Apc} (h : requestLegal a.latched = true) :
    writesResult (programOf c a) = (a.op == 2#4 || a.op == 3#4 || a.op == 6#4) := by
  rcases programOf_cases c a with ⟨ho, hp⟩ | ⟨ho, hp⟩ | ⟨ho, hp⟩ | ⟨ho, hp⟩ | ⟨ho, -, hp⟩ | ⟨ho, -, hp⟩ | ⟨ho, -, hp⟩ |
    ⟨ho, -, hp⟩ | ⟨ho, hp⟩ | ⟨ho, hp⟩ | ⟨hn, -⟩
  on_goal 11 => cases h.symm.trans hn
  all_goals rw [hp, ho]; rfl

/-- The micro-program of an instruction writes `RES` exactly when the instruction produces a result. -/
theorem writesResult_accepted {i : Instr} {r : Request} (hr : requestOf i = some r) (hl : requestLegal r = true)
    (s : State) : writesResult (programOf (accepted r s).cfg (accepted r s).apc) = producesResult i :=
  (writesResult_program (a := (accepted r s).apc) hl).trans (producesResult_eq hr).symm

/-- WAITRDY (R178) and SELCH with a channel above 7 (R192) are the operations without a select. -/
theorem lastLevel_none {c : Cfg} {a : Apc} (h : requestLegal a.latched = true)
    (hl : lastLevel (programOf c a) = none) : a.op = 4#4 ∨ a.op = 5#4 ∧ channelOutOfRange a.aPin = true := by
  rcases programOf_cases c a with ⟨-, hp⟩ | ⟨-, hp⟩ | ⟨-, hp⟩ | ⟨ho, -⟩ | ⟨-, -, hp⟩ | ⟨ho, hpin, -⟩ | ⟨-, -, hp⟩ |
    ⟨-, -, hp⟩ | ⟨-, hp⟩ | ⟨-, hp⟩ | ⟨hn, -⟩
  on_goal 11 => cases h.symm.trans hn
  on_goal 6 => exact .inr ⟨ho, hpin⟩
  on_goal 4 => exact .inl ho
  all_goals rw [hp] at hl; cases hl

/-- After a select there is a last one. -/
theorem lastLevel_ne_none {l : List MicroOp} {m : MicroOp} (hm : m = .selA ∨ m = .selD) (hl : m ∈ l) :
    lastLevel l ≠ none := by
  induction l using List.reverseRecOn with
  | nil => cases hl
  | append_singleton l x ih =>
    rw [lastLevel_append]
    rcases List.mem_append.1 hl with hin | hlast
    · cases x with
      | selA | selD => exact nofun
      | _ => exact ih hin
    · obtain rfl := List.mem_singleton.1 hlast
      rcases hm with rfl | rfl <;> exact nofun

/-- Outside a bracket the last select was a deassert. -/
theorem lastLevel_of_opBrackets {l : List MicroOp} {p : Bracket} (h : opBrackets .outside l = some p) :
    (lastLevel l).getD .deasserted = if p = .outside then .deasserted else .asserted := by
  induction l using List.reverseRecOn generalizing p with
  | nil => cases h; rfl
  | append_singleton l m ih =>
    rw [opBrackets_append] at h
    obtain ⟨q, hq, hm⟩ := Option.bind_eq_some_iff.1 h
    replace hm : opBracket q m = some p := by simpa [opBrackets] using hm
    rw [lastLevel_append]
    cases m with
    | selA =>
      cases q with
      | outside => cases hm; rfl
      | opened | sent | answered => cases hm
    | selD =>
      cases q with
      | sent | answered => cases hm; rfl
      | outside | opened => cases hm
    | tx frame =>
      cases q with
      | opened => cases hm; exact (ih hq).trans rfl
      | outside | sent | answered => cases hm
    | rx n =>
      cases q with
      | sent frame =>
        obtain ⟨-, rfl⟩ : isReplyTo frame n = true ∧ Bracket.answered = p := by simpa [opBracket] using hm
        exact (ih hq).trans rfl
      | outside | opened | answered => cases hm
    | wenter | wpoll | delay | setres | finish =>
      cases q with
      | outside => cases hm; exact ih hq
      | opened | sent | answered => cases hm

/-- No wait stands in a bracket: where an operation polls, its last select was a deassert or there was none. -/
theorem lastLevel_of_poll {s : State} {tp : TimeoutPolicy} (hm : currentOp s = some (.wpoll tp)) :
    (lastLevel (opsDone s)).getD .deasserted = .deasserted := by
  obtain ⟨p, _, hp, hq, -⟩ := currentOp_bracket hm
  have hout : p = .outside := by
    cases p with
    | outside => rfl
    | opened | sent | answered => cases hq
  rw [lastLevel_of_opBrackets hp, if_pos hout]

/-! ## Results (R27) -/

/-- Settles O57, by what every micro-step keeps of the result and where the micro-programs write it. -/
theorem noPartialResult : Obligations.NoPartialResult := by
  intro i s t hb h hb'
  obtain ⟨r, hr, ⟨hl, rfl⟩ | ⟨-, rfl⟩⟩ := exec_idle hb h
  · have hres : ResultTracks s.apc.res (runOp (accepted r s)) :=
      runOp_keeps (fun _ _ => ResultTracks.microStep) (.accepted r s)
    obtain ⟨hd, hval⟩ := hres.ended hb'
    rw [(runOp_frame _).program, writesResult_accepted hr hl] at hval
    refine ⟨hd, fun hne => ?_, fun hok => ?_, fun hno => ?_⟩
    · rw [beq_eq_false_iff_ne.2 hne] at hval
      exact ⟨hres.kept hval, hval⟩
    · rw [hval, hok]; rfl
    · exact hres.kept (by rw [hval, hno, Bool.and_false])
  · exact ⟨rfl, fun _ => ⟨rfl, rfl⟩, fun hok => (nomatch hok), fun _ => rfl⟩

/-! ## The shadow of the select line (R25) -/

/-- `t` is reached from `s` by events that explain `cs`, with a select among them only where the micro-program has
one. -/
def Shadowed (s t : State) : Prop :=
  ∃ es, t.trace = s.trace ++ es ∧ t.apc.cs = shadowAfter s.apc.cs es ∧
    ((∃ e ∈ es, e.isSelect = true) → lastLevel (programOf t.cfg t.apc) ≠ none)

theorem Shadowed.refl (s : State) : Shadowed s s := ⟨[], by simp, rfl, by simp⟩

theorem Shadowed.microStep {s t u : State} (h : Shadowed s t) (hu : microStep t = some u) : Shadowed s u := by
  obtain ⟨es, htr, hcs, hsel⟩ := h
  obtain ⟨-, hframe, -⟩ := microStep_spec hu
  obtain ⟨m, f, e, es', hm, hf, rfl⟩ := microStep_effect hu
  refine ⟨es ++ es', ?_, ?_, ?_⟩
  · rw [← List.append_assoc, ← htr]; rfl
  · rw [shadowAfter_append, ← hcs]; exact hf.cs_shadow t.apc
  · rw [hframe.program]
    rintro ⟨ev, hmem, hev⟩
    rcases List.mem_append.1 hmem with h1 | h2
    · exact hsel ⟨ev, h1, hev⟩
    · exact lastLevel_ne_none (hf.isSelect ⟨ev, h2, hev⟩) (currentOp_mem hm)

theorem shadowed_runOp (s : State) : Shadowed s (runOp s) :=
  runMicro_rel Shadowed.refl (fun _ _ _ => Shadowed.microStep) _ s

theorem appended_eq {s t : State} {es : List Event} (h : t.trace = s.trace ++ es) : appended s t = es := by
  rw [appended, h, List.drop_left]

theorem Shadowed.cs_eq {s t : State} (h : Shadowed s t) : t.apc.cs = shadowAfter s.apc.cs (appended s t) := by
  obtain ⟨es, htr, hcs, -⟩ := h
  rw [appended_eq htr, hcs]

theorem Shadowed.lastLevel_ne_none {s t : State} (h : Shadowed s t) (hsel : ∃ e ∈ appended s t, e.isSelect = true) :
    lastLevel (programOf t.cfg t.apc) ≠ none := by
  obtain ⟨es, htr, -, hl⟩ := h
  exact hl (appended_eq htr ▸ hsel)

/-- The shadow law of a run whose first state has the `cs` and the trace of `s`. -/
theorem runOp_cs {s u : State} (hcs : u.apc.cs = s.apc.cs) (htr : u.trace = s.trace) :
    (runOp u).apc.cs = shadowAfter s.apc.cs (appended s (runOp u)) := by
  rw [← hcs, appended, ← htr]
  exact (shadowed_runOp u).cs_eq

/-- What an operation that ends OK leaves of `cs`: Deasserted, or as it was when its micro-program has no select. -/
theorem cs_of_ok {r : Request} {s : State} (hb : (runOp (accepted r s)).apc.busy = false)
    (hok : (runOp (accepted r s)).apc.status = .ok) :
    (runOp (accepted r s)).apc.cs = .deasserted ∨
      lastLevel (programOf (runOp (accepted r s)).cfg (runOp (accepted r s)).apc) = none ∧
        (runOp (accepted r s)).apc.cs = s.apc.cs := by
  have hline : LineTracks s.apc.cs (runOp (accepted r s)) :=
    runOp_keeps (fun _ _ => LineTracks.microStep) (.accepted r s)
  have hcs := hline.ended hb hok
  cases hl : lastLevel (programOf (runOp (accepted r s)).cfg (runOp (accepted r s)).apc) with
  | none => exact .inr ⟨rfl, by rw [hcs, hl]; rfl⟩
  | some l =>
    rw [hl, program_lastLevel hl] at hcs
    exact .inl hcs

/-! ### The invariant R25 derives, as far as it goes (log 14) -/

/-- `Released`, or the operation has ended with TransportError. -/
def ReleasedOrFailed (s : State) : Prop :=
  Released s ∨ (s.apc.busy = false ∧ s.apc.done = true ∧ s.apc.status = .transportError)

theorem released_of_idle {s : State} (hb : s.apc.busy = false) (hcs : s.apc.cs = .deasserted) : Released s := by
  rw [Released, if_neg (by simp [hb]), hcs]

theorem released_of_busy {s : State} (hb : s.apc.busy = true)
    (hcs : s.apc.cs = (lastLevel (opsDone s)).getD .deasserted) : Released s := by
  rw [Released, if_pos hb, hcs]

theorem Released.lineTracks {s : State} (h : Released s) (hb : s.apc.busy = true) : LineTracks .deasserted s :=
  .of_running hb (by rw [Released, if_pos hb] at h; exact h)

theorem Released.cs_of_idle {s : State} (h : Released s) (hb : s.apc.busy = false) : s.apc.cs = .deasserted := by
  rwa [Released, if_neg (by simp [hb])] at h

/-- Only a poll times out. -/
theorem Effect.poll_of_timeout {c : Cfg} {p : Word} {m : MicroOp} {f : Apc → Apc} {es : List Event}
    (h : Effect c p m f es) {a : Apc} (hb : (f a).busy = false) (hst : (f a).status = .timeoutError)
    (ha : a.busy = true) : ∃ tp, m = .wpoll tp := by
  cases h with
  | timedOut => exact ⟨_, rfl⟩
  | pinFailed | assertFailed | deassertFailed | txFailed | rxFailed | finish => cases hst
  | _ => cases ha.symm.trans hb

theorem Released.microStep {s t : State} (h : Released s) (hs : microStep s = some t) : ReleasedOrFailed t := by
  obtain ⟨hb, hframe, hprog⟩ := microStep_spec hs
  have hline := (h.lineTracks hb).microStep hs
  obtain ⟨m, f, e, es, hm, hf, rfl⟩ := microStep_effect hs
  cases hprog with
  | advanced _ hb' | stayed _ hb' =>
    exact .inl (released_of_busy (hb'.trans hb) (hline.running (hb'.trans hb)))
  | aborted hstep hb' hd hst =>
    rcases hst with hst | hst
    · exact .inr ⟨hb', hd, hst⟩
    · obtain ⟨tp, rfl⟩ := hf.poll_of_timeout hb' hst hb
      refine .inl (released_of_idle hb' ?_)
      exact ((hf.unadvanced hstep).1.trans ((h.lineTracks hb).running hb)).trans (lastLevel_of_poll hm)
  | finished _ hb' _ hst =>
    refine .inl (released_of_idle hb' ?_)
    rw [hline.ended hb' hst]
    cases hl : lastLevel (programOf (s.effect f e es).cfg (s.effect f e es).apc) with
    | none => rfl
    | some l => rw [program_lastLevel hl]; rfl

theorem Released.runOp {s : State} (h : Released s) : ReleasedOrFailed (runOp s) := by
  refine runOp_keeps (fun s t hs hst => ?_) (.inl h)
  rcases hs with hrel | ⟨hb, -⟩
  · exact hrel.microStep hst
  · cases (microStep_idle hb).symm.trans hst

theorem Released.accept {s : State} (h : Released s) (hb : s.apc.busy = false) (r : Request) :
    Released (accept r s) := by
  cases hl : requestLegal r with
  | true => rw [accept_legal hb hl]; exact released_of_busy rfl (h.cs_of_idle hb)
  | false => rw [accept_illegal hb hl]; exact released_of_idle hb (h.cs_of_idle hb)

theorem step_keeps_released {s t : State} (h : Released s) (hs : step s = .next t) : ReleasedOrFailed t := by
  rcases step_next hs with ⟨-, rfl⟩ | ⟨-, u, rfl, rfl | ⟨p, rest, r, hb, -, rfl⟩⟩
  · exact .inl rfl
  · exact h.runOp
  · have h' : Released { s with inbox := rest } := h
    exact (h'.accept hb r).runOp

theorem step_cs {s t : State} (hr : s.rst = false) (hs : step s = .next t) :
    t.apc.cs = shadowAfter s.apc.cs (appended s t) := by
  rcases step_next hs with ⟨hr', -⟩ | ⟨-, u, rfl, rfl | ⟨p, rest, r, -, -, rfl⟩⟩
  · cases hr.symm.trans hr'
  · exact runOp_cs rfl rfl
  · obtain ⟨-, -, htr, hcs⟩ := accept_frame r { s with inbox := rest }
    exact runOp_cs hcs htr

theorem exec_cs {i : Instr} {s t : State} (hb : s.apc.busy = false) (h : exec i s = .next t) :
    t.apc.cs = shadowAfter s.apc.cs (appended s t) := by
  obtain ⟨r, -, rfl⟩ := exec_next h
  rw [runRequest_idle hb]
  obtain ⟨-, -, htr, hcs⟩ := accept_frame r s
  exact runOp_cs hcs htr

theorem exec_ok_cs {i : Instr} {s t : State} (hb : s.apc.busy = false) (h : exec i s = .next t)
    (hb' : t.apc.busy = false) (hok : t.apc.status = .ok) : t.apc.cs = .deasserted ∨
      ((∃ f, i = .waitrdy f ∨ (i = .selch f ∧ 7 < f.pin.toNat)) ∧ (¬∃ e ∈ appended s t, e.isSelect = true) ∧
        t.apc.cs = s.apc.cs) := by
  obtain ⟨r, hr, ⟨hl, rfl⟩ | ⟨-, rfl⟩⟩ := exec_idle hb h
  · refine (cs_of_ok hb' hok).imp_right fun ⟨hnone, hcs⟩ => ⟨?_, ?_, hcs⟩
    · rw [(runOp_frame _).program] at hnone
      rcases lastLevel_none (a := (accepted r s).apc) hl hnone with ho | ⟨ho, hpin⟩
      · obtain ⟨f, rfl⟩ := waitrdy_of_op hr ho
        exact ⟨f, .inl rfl⟩
      · exact ⟨r.fields, .inr ⟨selch_of_op hr ho, of_decide_eq_true hpin⟩⟩
    · exact fun hsel => (shadowed_runOp (accepted r s)).lastLevel_ne_none hsel hnone
  · cases hok

/-- Settles O60, by the shadow law of a run, the last select of each micro-program, and `Released` step by step. -/
theorem shadowFollowsSelects : Obligations.ShadowFollowsSelects := by
  refine ⟨fun s t hr hs => step_cs hr hs, fun i s t hb h => ⟨exec_cs hb h, fun hb' hok hor => ?_⟩,
    fun i s t hb h hb' hok => ?_, rfl, fun s t h hs => step_keeps_released h hs⟩
  · rcases exec_ok_cs hb h hb' hok with hcs | ⟨-, hnone, hcs⟩
    · exact hcs
    · exact hor.elim (fun hsel => absurd hsel hnone) hcs.trans
  · exact (exec_ok_cs hb h hb' hok).imp_right fun ⟨hi, _, hcs⟩ => ⟨hi, hcs⟩

end Sys2Proof.Machine
end

section
/-! PROOFS. Two runs side by side: what is presented while busy (spec/10_state.md R28), what earlier operations left in the registers (R26). -/

namespace Sys2Proof.Machine

/-! ## Two runs side by side -/

/-- Two states at the same place of the same operation, with the same parameters and answers to come, make the same
micro-step or both wait, if the reads counted agree where a poll comes next. -/
theorem microStep_pair {s s' : State} (hc : s'.cfg = s.cfg) (he : s'.env = s.env)
    (hlat : s'.apc.latched = s.apc.latched) (hb : s'.apc.busy = s.apc.busy) (hstep : s'.apc.step = s.apc.step)
    (hp : ∀ tp, currentOp s = some (.wpoll tp) → s'.apc.pollCnt = s.apc.pollCnt) :
    (microStep s = none ∧ microStep s' = none) ∨
    ∃ m f e es, currentOp s = some m ∧ Effect s.cfg s.apc.pollCnt m f es ∧
      microStep s = some (s.effect f e es) ∧ microStep s' = some (s'.effect f e es) := by
  have hcur : currentOp s' = currentOp s := by
    rw [currentOp, currentOp, hc, programOf_congr_latched hlat, hstep]
  cases hbusy : s.apc.busy with
  | false => exact .inl ⟨microStep_idle hbusy, microStep_idle (hb.trans hbusy)⟩
  | true =>
    cases hm : currentOp s with
    | none => exact .inl (by simp [microStep, hcur, hm])
    | some m =>
      rw [microStep_of hbusy hm, microStep_of (hb.trans hbusy) (hcur.trans hm)]
      refine (sameEffect hc he fun tp htp => hp tp (htp ▸ hm)).imp_right ?_
      rintro ⟨f, e, es, hf, hs, hs'⟩
      exact ⟨m, f, e, es, rfl, hf, hs, hs'⟩

/-- What two micro-steps side by side keep, two runs side by side keep. -/
theorem runMicro_pair {R : State → State → Prop}
    (hstep : ∀ s s', R s s' → (microStep s = none ∧ microStep s' = none) ∨
      ∃ t t', microStep s = some t ∧ microStep s' = some t' ∧ R t t') :
    ∀ n s s', R s s' → R (runMicro n s) (runMicro n s') := by
  intro n
  induction n with
  | zero => exact fun _ _ h => h
  | succ n ih =>
    intro s s' h
    rcases hstep s s' h with ⟨hs, hs'⟩ | ⟨t, t', hs, hs', ht⟩
    · rw [runMicro_quiet hs, runMicro_quiet hs']
      exact h
    · rw [runMicro_some hs, runMicro_some hs']
      exact ih t t' ht

/-! ### What is presented (R28) -/

theorem microStep_withInbox (s : State) (ps : List Presented) :
    (microStep s = none ∧ microStep { s with inbox := ps } = none) ∨
    ∃ t, microStep s = some t ∧ microStep { s with inbox := ps } = some { t with inbox := ps } := by
  rcases microStep_pair (s := s) (s' := { s with inbox := ps }) rfl rfl rfl rfl rfl (fun _ _ => rfl) with
    hnone | ⟨m, f, e, es, -, -, hs, hs'⟩
  · exact .inl hnone
  · exact .inr ⟨_, hs, hs'⟩

theorem runOp_withInbox (s : State) (ps : List Presented) :
    runOp { s with inbox := ps } = { runOp s with inbox := ps } :=
  runMicro_pair (R := fun s s' => s' = { s with inbox := ps })
    (fun s _ h => by
      subst h
      exact (microStep_withInbox s ps).imp_right fun ⟨t, hs, hs'⟩ => ⟨t, _, hs, hs', rfl⟩) _ s _ rfl

/-- Settles O14: a run is the same whatever is presented. -/
theorem busyIgnoresRequests : Obligations.BusyIgnoresRequests := by
  intro s ps hr hb
  refine ⟨fun r => accept_busy hb, ?_⟩
  rw [step_busy hr hb, step_busy (by exact hr) (by exact hb), resume, resume]
  rcases microStep_withInbox s ps with ⟨hs, hs'⟩ | ⟨t, hs, hs'⟩
  · rw [hs, hs']
    exact .inl ⟨rfl, rfl⟩
  · rw [hs, hs']
    obtain ⟨-, hframe, -⟩ := microStep_spec hs
    exact .inr ⟨runOp t, rfl, (runOp_frame t).inbox.trans hframe.inbox, congrArg _ (runOp_withInbox t ps)⟩

/-! ### What the registers held (R26) -/

/-- The registers an operation has written so far, of those a micro-op reads: `poll_cnt` (R171), the first bytes of `RXB`
(R69). -/
structure Written where
  counted : Bool
  bytes : Nat

/-- What is written after micro-op `m`. -/
def Written.after (w : Written) : MicroOp → Written
  | .wenter => { w with counted := true }
  | .rx n => { w with bytes := max w.bytes n }
  | _ => w

/-- How many bytes of `RXB` a result is made of (R71). -/
def ResultKind.bytes : ResultKind → Nat
  | .registerByte | .chipId => 1
  | .sample => 3

/-- The registers micro-op `m` reads are written. -/
def Written.covers (w : Written) : MicroOp → Bool
  | .wpoll _ => w.counted
  | .setres k => k.bytes ≤ w.bytes
  | _ => true

/-- Every micro-op of the list reads only registers written before it, `w` being written at the beginning. -/
def readsOwn (w : Written) : List MicroOp → Bool
  | [] => true
  | m :: ms => w.covers m && readsOwn (w.after m) ms

/-- No micro-program reads a register it has not written itself, but the latches (R26). -/
theorem readsOwn_program (c : Cfg) (a : Apc) : readsOwn ⟨false, 0⟩ (programOf c a) = true := by
  rcases programOf_cases c a with ⟨-, hp⟩ | ⟨-, hp⟩ | ⟨-, hp⟩ | ⟨-, hp⟩ | ⟨-, -, hp⟩ | ⟨-, -, hp⟩ | ⟨-, -, hp⟩ |
    ⟨-, -, hp⟩ | ⟨-, hp⟩ | ⟨-, hp⟩ | ⟨-, hp⟩ <;> rw [hp] <;> rfl

/-- The first `n` bytes agree. -/
def RxBuf.agree (n : Nat) (r r' : RxBuf) : Prop :=
  (0 < n → r'.b0 = r.b0) ∧ (1 < n → r'.b1 = r.b1) ∧ (2 < n → r'.b2 = r.b2)

theorem resultOf_agree {k : ResultKind} {n : Nat} {r r' : RxBuf} (h : RxBuf.agree n r r') (hk : k.bytes ≤ n) :
    resultOf k r' = resultOf k r := by
  obtain ⟨h0, h1, h2⟩ := h
  cases k with
  | registerByte => simp only [resultOf, h0 hk]
  | chipId => simp only [resultOf, h0 hk]
  | sample =>
    have hk : 3 ≤ n := hk
    simp only [resultOf, h0 (by omega), h1 (by omega), h2 (by omega)]

/-- A byte loaded agrees; one not loaded agrees if it did. -/
theorem getD_agree {n i : Nat} {bytes : List Byte} {b b' : Byte} (h : i < n → b' = b) (hi : i < max n bytes.length) :
    bytes.getD i b' = bytes.getD i b := by
  by_cases hl : i < bytes.length
  · rw [List.getD_eq_getElem _ _ hl, List.getD_eq_getElem _ _ hl]
  · rw [h (by omega)]

theorem RxBuf.agree_load {n : Nat} {r r' : RxBuf} (h : RxBuf.agree n r r') (bytes : List Byte) :
    RxBuf.agree (max n bytes.length) (r.load bytes) (r'.load bytes) := by
  obtain ⟨h0, h1, h2⟩ := h
  exact ⟨getD_agree h0, getD_agree h1, getD_agree h2⟩

/-- The registers written agree. -/
def Written.agree (w : Written) (a a' : Apc) : Prop :=
  (w.counted = true → a'.pollCnt = a.pollCnt) ∧ RxBuf.agree w.bytes a.rxb a'.rxb

/-- What the host and the sequencer see of the registers: where the operation stands, and the result once there is one. -/
structure SameView (a a' : Apc) : Prop where
  busy : a'.busy = a.busy
  step : a'.step = a.step
  done : a'.done = a.done
  latched : a'.latched = a.latched
  resValid : a'.resValid = a.resValid
  status : a.done = true → a'.status = a.status
  res : a.resValid = true → a'.res = a.res

/-- One effect on two register files that look the same leaves them looking the same. -/
theorem Effect.sameView {c : Cfg} {p : Word} {m : MicroOp} {f : Apc → Apc} {es : List Event} (hf : Effect c p m f es)
    {a a' : Apc} (h : SameView a a') {w : Written} (hw : w.covers m = true) (hag : w.agree a a') :
    SameView (f a) (f a') := by
  obtain ⟨hb, hs, hd, hl, hv, hst, hr⟩ := h
  cases hf with
  | setres k => exact ⟨hb, congrArg (· + 1) hs, hd, hl, rfl, hst, fun _ => resultOf_agree hag.2 (of_decide_eq_true hw)⟩
  | notReady => exact ⟨hb, hs, hd, hl, hv, hst, hr⟩
  | pinFailed | timedOut | assertFailed | deassertFailed | txFailed | rxFailed | finish =>
    exact ⟨rfl, hs, rfl, hl, hv, fun _ => rfl, hr⟩
  | wenter | settled | suppressed | asserted | deasserted | sent | received | delay =>
    exact ⟨hb, congrArg (· + 1) hs, hd, hl, hv, hst, hr⟩

/-- While the operation goes on, what is written after the micro-op agrees. -/
theorem Effect.agree {c : Cfg} {p : Word} {m : MicroOp} {f : Apc → Apc} {es : List Event} (hf : Effect c p m f es)
    {a a' : Apc} {w : Written} (h : w.agree a a') (hw : w.covers m = true) (hb : (f a).busy = true) :
    (w.after m).agree (f a) (f a') := by
  obtain ⟨hc, hx⟩ := h
  cases hf with
  | wenter => exact ⟨fun _ => rfl, hx⟩
  | settled | notReady => exact ⟨fun _ => congrArg (· + 1#32) (hc hw), hx⟩
  | received bytes => exact ⟨hc, RxBuf.agree_load hx bytes⟩
  | pinFailed | timedOut | assertFailed | deassertFailed | txFailed | rxFailed | finish => cases hb
  | suppressed | asserted | deasserted | sent | delay | setres => exact ⟨hc, hx⟩

/-- Two runs of one operation, begun with the traces `p` and `p'`, at the same place. -/
structure SameRun (p p' : List Event) (s s' : State) : Prop where
  cfg : s'.cfg = s.cfg
  env : s'.env = s.env
  view : SameView s.apc s'.apc
  trace : ∃ es, s.trace = p ++ es ∧ s'.trace = p' ++ es
  written : s.apc.busy = true → ∃ w : Written, readsOwn w (opsLeft s) = true ∧ w.agree s.apc s'.apc

theorem opsLeft_eq_cons {s : State} {m : MicroOp} (hm : currentOp s = some m) :
    opsLeft s = m :: (programOf s.cfg s.apc).drop (s.apc.step + 1) := by
  obtain ⟨hlt, he⟩ := List.getElem?_eq_some_iff.1 hm
  rw [opsLeft, List.drop_eq_getElem_cons hlt, he]

/-- What the micro-ops left read is still covered after a micro-step, by what it wrote. -/
theorem readsOwn_microStep {s t : State} {m : MicroOp} {w : Written} (h : microStep s = some t)
    (hm : currentOp s = some m) (hw : readsOwn w (opsLeft s) = true) (hb : t.apc.busy = true) :
    readsOwn (w.after m) (opsLeft t) = true := by
  obtain ⟨-, hframe, hprog⟩ := microStep_spec h
  cases hprog with
  | advanced hstep =>
    rw [opsLeft_eq_cons hm, readsOwn, Bool.and_eq_true] at hw
    rw [opsLeft, hframe.program, hstep]
    exact hw.2
  | stayed hstep _ _ _ hp =>
    obtain ⟨tp, htp⟩ := hp
    cases hm.symm.trans htp
    rw [opsLeft, hframe.program, hstep]
    exact hw
  | aborted _ hb' | finished _ hb' => cases hb.symm.trans hb'

theorem SameRun.microStep {p p' : List Event} {s s' : State} (h : SameRun p p' s s') :
    (microStep s = none ∧ microStep s' = none) ∨
    ∃ t t', microStep s = some t ∧ microStep s' = some t' ∧ SameRun p p' t t' := by
  obtain ⟨hc, he, hview, ⟨es, htr, htr'⟩, hwr⟩ := h
  cases hb : s.apc.busy with
  | false => exact .inl ⟨microStep_idle hb, microStep_idle (hview.busy.trans hb)⟩
  | true =>
    obtain ⟨w, hread, hag⟩ := hwr hb
    have hcov {m : MicroOp} (hm : currentOp s = some m) : w.covers m = true := by
      rw [opsLeft_eq_cons hm, readsOwn, Bool.and_eq_true] at hread
      exact hread.1
    refine (microStep_pair hc he hview.latched hview.busy hview.step fun tp htp => hag.1 (hcov htp)).imp_right ?_
    rintro ⟨m, f, e, es', hm, hf, hs, hs'⟩
    refine ⟨_, _, hs, hs', hc, rfl, hf.sameView hview (hcov hm) hag, ⟨es ++ es', ?_, ?_⟩, fun hb' => ?_⟩
    · exact (congrArg (· ++ es') htr).trans (List.append_assoc _ _ _)
    · exact (congrArg (· ++ es') htr').trans (List.append_assoc _ _ _)
    · exact ⟨w.after m, readsOwn_microStep hs hm hread hb', hf.agree hag (hcov hm) hb'⟩

theorem SameRun.accepted {r : Request} {s s' : State} (hc : s'.cfg = s.cfg) (he : s'.env = s.env) :
    SameRun s.trace s'.trace (accepted r s) (accepted r s') where
  cfg := hc
  env := he
  view := ⟨rfl, rfl, rfl, rfl, rfl, fun hd => (nomatch hd), fun hv => (nomatch hv)⟩
  trace := ⟨[], (List.append_nil _).symm, (List.append_nil _).symm⟩
  written _ := by
    refine ⟨⟨false, 0⟩, ?_, fun hf => (nomatch hf), ?_⟩
    · rw [opsLeft_accepted]
      exact readsOwn_program _ _
    · exact ⟨fun h0 => absurd h0 (Nat.not_lt_zero _), fun h0 => absurd h0 (Nat.not_lt_zero _),
        fun h0 => absurd h0 (Nat.not_lt_zero _)⟩

theorem SameRun.runOp {p p' : List Event} {s s' : State} (h : SameRun p p' s s') :
    SameRun p p' (runOp s) (runOp s') := by
  have hfuel : opFuel s' = opFuel s := by rw [opFuel, opFuel, h.env]
  rw [Machine.runOp, Machine.runOp, hfuel]
  exact runMicro_pair (fun _ _ => SameRun.microStep) _ s s' h

/-- Settles O58: two runs of one operation keep looking the same, since they read only what they have written. -/
theorem nothingIsCached : Obligations.NothingIsCached := by
  intro i s₁ s₂ t₁ t₂ hb₁ hb₂ hc he h₁ h₂
  obtain ⟨r, hr, hrun₁⟩ := exec_idle hb₁ h₁
  obtain ⟨r', hr', hrun₂⟩ := exec_idle hb₂ h₂
  cases hr.symm.trans hr'
  rcases hrun₁ with ⟨hl, rfl⟩ | ⟨hl, rfl⟩ <;> rcases hrun₂ with ⟨hl', rfl⟩ | ⟨hl', rfl⟩
  · obtain ⟨-, henv, hview, ⟨es, htr, htr'⟩, -⟩ := (SameRun.accepted (r := r) hc.symm he.symm).runOp
    refine ⟨?_, henv.symm, hview.busy.symm, fun _ => hview.step.symm, hview.done.symm, hview.resValid.symm,
      fun hd => (hview.status hd).symm, fun hv => (hview.res hv).symm⟩
    rw [appended_eq htr, appended_eq htr']
  · cases hl.symm.trans hl'
  · cases hl.symm.trans hl'
  · have htr {s : State} : appended s (refusedIllegal r s) = [] := List.drop_length
    refine ⟨htr.trans htr.symm, he, hb₁.trans hb₂.symm, fun hw => ?_, rfl, rfl, fun _ => rfl, fun hv => (nomatch hv)⟩
    cases hl.symm.trans (requestLegal_of_wellFormed hr hw)

end Sys2Proof.Machine
end

section
/-! SUPPORT. The port operations forwards: what each answers for each answer of the environment (spec/20_memory.md R67 to R69, R78, R79; 41_readiness_sync.md R172, R174). The converses are `selectLine_cases` to `poll_cases`. -/

namespace Sys2Proof.Machine

section
variable {s : State}

/-! ## A call that is not answered (R79) -/

theorem selectLine_unanswered {l : SelLevel} (h : s.env.sel = []) : selectLine l s = none := by
  rw [selectLine, h]

theorem transmit_unanswered {frame : List Byte} (h : s.env.tx = []) : transmit frame s = none := by
  rw [transmit, h]

theorem receive_unanswered {n : Nat} (h : s.env.rx = []) : receive n s = none := by
  rw [receive, h]

theorem poll_unanswered {tp : TimeoutPolicy} (hp : s.apc.pollCnt < s.cfg.pollBound) (h : s.env.pin = []) :
    poll tp s = none := by
  rw [poll, if_pos hp, h]

/-! ## A call that is answered -/

theorem selectLine_ok {l : SelLevel} {rest : List SelAnswer} (h : s.env.sel = .ok :: rest) :
    selectLine l s = some { s with
      apc := (s.apc.setCs l).advance, env := { s.env with sel := rest }, trace := s.trace ++ [.sel l .ok] } := by
  rw [selectLine, h]; rfl

theorem selectLine_err {l : SelLevel} {rest : List SelAnswer} (h : s.env.sel = .err :: rest) :
    selectLine l s = some { s with
      apc := s.apc.abort .transportError, env := { s.env with sel := rest }, trace := s.trace ++ [.sel l .err] } := by
  rw [selectLine, h]; rfl

theorem transmit_ok {frame : List Byte} {rest : List TxAnswer} (h : s.env.tx = .ok frame.length :: rest) :
    transmit frame s = some { s with
      apc := (s.apc.loadTx frame).advance, env := { s.env with tx := rest }
      trace := s.trace ++ [.tx frame (.ok frame.length)] } := by
  simp only [transmit, h, if_true]; rfl

theorem transmit_failed {frame : List Byte} {a : TxAnswer} {rest : List TxAnswer} (ha : a ≠ .ok frame.length)
    (h : s.env.tx = a :: rest) :
    transmit frame s = some { s with
      apc := (s.apc.loadTx frame).abort .transportError, env := { s.env with tx := rest }
      trace := s.trace ++ [.tx frame a] } := by
  cases a with
  | ok n =>
    have hn : n ≠ frame.length := fun he => ha (congrArg _ he)
    simp only [transmit, h, hn, if_false]; rfl
  | err => rw [transmit, h]; rfl

theorem receive_ok {bytes : List Byte} {rest : List RxAnswer} (h : s.env.rx = .ok bytes :: rest) :
    receive bytes.length s = some { s with
      apc := (s.apc.loadRx bytes).advance, env := { s.env with rx := rest }
      trace := s.trace ++ [.rx bytes.length (.ok bytes)] } := by
  simp only [receive, h, if_true]; rfl

theorem receive_failed {n : Nat} {a : RxAnswer} {rest : List RxAnswer} (ha : ∀ bytes, a = .ok bytes → bytes.length ≠ n)
    (h : s.env.rx = a :: rest) :
    receive n s = some { s with
      apc := s.apc.abort .transportError, env := { s.env with rx := rest }, trace := s.trace ++ [.rx n a] } := by
  cases a with
  | ok bytes => simp only [receive, h, ha bytes rfl, if_false]; rfl
  | err => rw [receive, h]; rfl

/-- Below the bound a poll is one read, counted first (R172). -/
theorem poll_answered {tp : TimeoutPolicy} {a : PinAnswer} {rest : List PinAnswer}
    (hp : s.apc.pollCnt < s.cfg.pollBound) (h : s.env.pin = a :: rest) :
    poll tp s = some (pollAnswered a { s with
      apc := s.apc.countRead, env := { s.env with pin := rest }, trace := s.trace ++ [.pin s.cfg.drdyPinId a] }) := by
  rw [poll, if_pos hp, h]; rfl

/-- At the bound a poll is the timeout (R174). -/
theorem poll_exhausted {tp : TimeoutPolicy} (hp : ¬ s.apc.pollCnt < s.cfg.pollBound) :
    poll tp s = some (pollTimedOut tp s) := by
  rw [poll, if_neg hp]

end

/-- RDID's result is the high nibble of the byte read (R71, R222). -/
theorem chipId_eq_extract (b : Byte) : (chipId b).zeroExtend 32 = (b.extractLsb' 4 4).zeroExtend 32 := by
  revert b; decide

end Sys2Proof.Machine
end

section
/-! PROOFS. The statements on single micro-ops (spec/20_memory.md R67 to R71, R79). -/

namespace Sys2Proof.Machine

/-- Settles O20: with its call unanswered the micro-op answers nothing, so the step is a fault unless reset is active. -/
theorem unansweredCallIsStuck : Obligations.UnansweredCallIsStuck := by
  intro s m hr hb hm hcall
  have hrun : runMicroOp m s = none := by
    rcases hcall with ⟨rfl | rfl, h⟩ | ⟨fr, rfl, h⟩ | ⟨n, rfl, h⟩ | ⟨tp, rfl, hp, h⟩
    · exact selectLine_unanswered h
    · exact selectLine_unanswered h
    · exact transmit_unanswered h
    · exact receive_unanswered h
    · exact poll_unanswered hp h
  have hstuck : microStep s = none := (microStep_of hb hm).trans hrun
  exact ⟨hstuck, by rw [step_busy hr hb, resume, hstuck], step_reset rfl⟩

/-- Settles O24: the select by its answer. -/
theorem selectMicroOp : Obligations.SelectMicroOp := by
  intro s m l a rest hb hm hl hsel
  have hrun : microStep s = selectLine l s := by
    rw [microStep_of hb hm]
    rcases hl with ⟨rfl, rfl⟩ | ⟨rfl, rfl⟩ <;> rfl
  rw [hrun]
  refine ⟨?_, ?_⟩
  · rintro rfl
    exact selectLine_ok hsel
  · rintro rfl
    exact selectLine_err hsel

/-- Settles O25: the transfer by whether the whole length went. -/
theorem transmitMicroOp : Obligations.TransmitMicroOp := by
  intro s fr a rest hb hm htx
  rw [microStep_of hb hm]
  refine ⟨?_, fun ha => transmit_failed ha htx⟩
  rintro rfl
  exact transmit_ok htx

/-- Settles O26: the transfer by whether the whole length came. -/
theorem receiveMicroOp : Obligations.ReceiveMicroOp := by
  intro s n a rest hb hm hrx
  rw [microStep_of hb hm]
  refine ⟨?_, fun ha => receive_failed ?_ hrx⟩
  · rintro bytes rfl rfl
    exact receive_ok hrx
  · rcases ha with rfl | ⟨bytes, rfl, hlen⟩
    · exact nofun
    · rintro _ ⟨⟩
      exact hlen

/-- Settles O27: each micro-op is its own update of the registers. -/
theorem calllessMicroOps : Obligations.CalllessMicroOps :=
  fun _ hb => ⟨microStep_of hb, microStep_of hb, microStep_of hb⟩

/-- Settles O28, by the kind of result. -/
theorem setResultMicroOp : Obligations.SetResultMicroOp := by
  intro s k hb hm
  rw [microStep_of hb hm, runMicroOp, setResult]
  cases k with
  | registerByte | sample => rfl
  | chipId => rw [← chipId_eq_extract]; rfl

end Sys2Proof.Machine
end

section
/-! PROOFS. Late answers (spec/20_memory.md R79, R81): a micro-step that can be taken does the same with more answers waiting, so a run with more answers passes through the end of the run without them. -/

namespace Sys2Proof.Machine

/-! ## More answers waiting -/

section
variable {s t : State} (e : Env)

theorem selectLine_deliver {l : SelLevel} (h : selectLine l s = some t) :
    selectLine l (s.deliver e) = some (t.deliver e) := by
  rcases selectLine_cases h with ⟨rest, he, rfl⟩ | ⟨rest, he, rfl⟩
  · exact selectLine_ok (congrArg (· ++ e.sel) he)
  · exact selectLine_err (congrArg (· ++ e.sel) he)

theorem transmit_deliver {frame : List Byte} (h : transmit frame s = some t) :
    transmit frame (s.deliver e) = some (t.deliver e) := by
  rcases transmit_cases h with ⟨rest, he, rfl⟩ | ⟨a, rest, ha, he, rfl⟩
  · exact transmit_ok (congrArg (· ++ e.tx) he)
  · exact transmit_failed ha (congrArg (· ++ e.tx) he)

theorem receive_deliver {n : Nat} (h : receive n s = some t) : receive n (s.deliver e) = some (t.deliver e) := by
  rcases receive_cases h with ⟨bytes, rest, rfl, he, rfl⟩ | ⟨a, rest, ha, he, rfl⟩
  · exact receive_ok (congrArg (· ++ e.rx) he)
  · exact receive_failed ha (congrArg (· ++ e.rx) he)

@[simp] theorem State.deliver_cfg (s : State) : (s.deliver e).cfg = s.cfg := rfl

theorem pollAnswered_deliver (a : PinAnswer) (s : State) :
    pollAnswered a (s.deliver e) = (pollAnswered a s).deliver e := by
  cases a with
  | ok l =>
    by_cases hl : l = s.cfg.readyLevel
    · simp only [pollAnswered, State.deliver_cfg, hl, if_true]; rfl
    · simp only [pollAnswered, State.deliver_cfg, hl, if_false]
  | err =>
    simp only [pollAnswered, State.deliver_cfg]
    cases s.cfg.onPinReadError <;> rfl

theorem pollTimedOut_deliver (tp : TimeoutPolicy) (s : State) :
    pollTimedOut tp (s.deliver e) = (pollTimedOut tp s).deliver e := by
  cases tp <;> rfl

theorem poll_deliver {tp : TimeoutPolicy} (h : poll tp s = some t) : poll tp (s.deliver e) = some (t.deliver e) := by
  by_cases hp : s.apc.pollCnt < s.cfg.pollBound
  · cases hpin : s.env.pin with
    | nil => rw [poll_unanswered hp hpin] at h; cases h
    | cons a rest =>
      rw [poll_answered hp hpin] at h
      cases h
      rw [← pollAnswered_deliver]
      exact poll_answered (s := s.deliver e) hp (congrArg (· ++ e.pin) hpin)
  · rw [poll_exhausted hp] at h
    cases h
    rw [← pollTimedOut_deliver]
    exact poll_exhausted (s := s.deliver e) hp

theorem runMicroOp_deliver {m : MicroOp} (h : runMicroOp m s = some t) :
    runMicroOp m (s.deliver e) = some (t.deliver e) := by
  cases m with
  | wpoll tp => exact poll_deliver e h
  | selA | selD => exact selectLine_deliver e h
  | tx frame => exact transmit_deliver e h
  | rx n => exact receive_deliver e h
  | wenter | delay | setres | finish => cases h; rfl

/-- A micro-step that can be taken leaves further answers untouched. -/
theorem microStep_deliver (h : microStep s = some t) : microStep (s.deliver e) = some (t.deliver e) := by
  obtain ⟨hb, m, hm, hr⟩ := microStep_some h
  exact (microStep_of (s := s.deliver e) hb hm).trans (runMicroOp_deliver e hr)

end

/-- A run with more answers goes on from where the run without them stopped. -/
theorem runOp_deliver (e : Env) (s : State) : runOp (s.deliver e) = runOp ((runOp s).deliver e) :=
  (runOp_keeps (P := fun t => Leads (s.deliver e) (t.deliver e))
    (fun _ _ ht hu => ht.trans (.one (microStep_deliver e hu))) (.refl _)).runOp_trans

/-- A step of a busy APC runs its operation on, or finds its call unanswered. -/
theorem step_runs {s : State} (hr : s.rst = false) (hb : s.apc.busy = true) :
    step s = .next (runOp s) ∨ (step s = .fault .noAnswer ∧ runOp s = s) := by
  rw [step_busy hr hb, resume]
  cases hm : microStep s with
  | none => exact .inr ⟨rfl, (Leads.refl s).runOp_eq hm⟩
  | some t => exact .inl (congrArg _ (Leads.one hm).runOp_trans.symm)

/-- Acceptance does not look at the answers to come (R30). -/
theorem accept_deliver (e : Env) {r : Request} {s : State} (hb : s.apc.busy = false) :
    accept r (s.deliver e) = (accept r s).deliver e := by
  cases hl : requestLegal r with
  | true => rw [accept_legal hb hl, accept_legal (s := s.deliver e) hb hl]; rfl
  | false => rw [accept_illegal hb hl, accept_illegal (s := s.deliver e) hb hl]; rfl

/-- An instruction that starts idle runs its request from acceptance. -/
theorem exec_runOp {i : Instr} {s t : State} (hb : s.apc.busy = false) (h : exec i s = .next t) :
    ∃ r, requestOf i = some r ∧ t = runOp (accept r s) := by
  obtain ⟨r, hr, rfl⟩ := exec_next h
  exact ⟨r, hr, runRequest_idle hb⟩

/-- Settles O21: the run with the late answers passes through the state the run without them ended in. -/
theorem lateAnswersChangeNothing : Obligations.LateAnswersChangeNothing := by
  intro i s t u e hrst hb ht hu
  obtain ⟨r, hr, rfl⟩ := exec_runOp hb ht
  obtain ⟨r', hr', rfl⟩ := exec_runOp (s := s.deliver e) hb hu
  cases hr.symm.trans hr'
  rw [accept_deliver e hb, runOp_deliver]
  obtain ⟨-, haccept, -⟩ := accept_frame r s
  have hrst' : (runOp (accept r s)).rst = false := (runOp_frame _).rst.trans (haccept.trans hrst)
  exact ⟨fun hb' => runOp_idle hb', fun hb' => step_runs hrst' hb'⟩

end Sys2Proof.Machine
end

section
/-! PROOFS. What the events of an operation are (spec/20_memory.md R62 to R64) and how they stand in brackets (R66). -/

namespace Sys2Proof.Machine

/-! ## The calls (R62 to R64) -/

/-- A delay, or one of the calls of R62 to R64. -/
def Event.specified (c : Cfg) (e : Event) : Prop :=
  e = .delay ∨ (∃ l, e.call? = some (.selectLine l)) ∨
    (∃ fr, e.call? = some (.busTransfer (some fr) none fr.length) ∧ fr.length ∈ [1, 2, 3, 6]) ∨
    (∃ n, e.call? = some (.busTransfer none (some n) n) ∧ n ∈ [1, 3]) ∨
    e.call? = some (.digitalRead c.drdyPinId)

/-- The frames and the reads of a micro-program have the lengths of R62. -/
theorem Effect.specified {c : Cfg} {a : Apc} {p : Word} {m : MicroOp} {f : Apc → Apc} {es : List Event}
    (h : Effect c p m f es) (hm : m ∈ programOf c a) : ∀ e ∈ es, e.specified c := by
  cases h with
  | wenter | timedOut | suppressed | setres | finish => exact nofun
  | settled | notReady | pinFailed => exact List.forall_mem_singleton.2 (.inr (.inr (.inr (.inr rfl))))
  | asserted | assertFailed | deasserted | deassertFailed => exact List.forall_mem_singleton.2 (.inr (.inl ⟨_, rfl⟩))
  | sent | txFailed =>
    exact List.forall_mem_singleton.2 (.inr (.inr (.inl ⟨_, rfl, program_frame_length hm⟩)))
  | received | rxFailed =>
    exact List.forall_mem_singleton.2 (.inr (.inr (.inr (.inl ⟨_, rfl, program_read_length hm⟩))))
  | delay => exact List.forall_mem_singleton.2 (.inl rfl)

/-- `t` is reached from the trace `k` by specified events. -/
def SpecifiedSince (c : Cfg) (k : List Event) (t : State) : Prop :=
  t.cfg = c ∧ ∃ es, t.trace = k ++ es ∧ ∀ e ∈ es, e.specified c

theorem SpecifiedSince.microStep {c : Cfg} {k : List Event} {t u : State} (h : SpecifiedSince c k t)
    (hu : microStep t = some u) : SpecifiedSince c k u := by
  obtain ⟨rfl, es, htr, hes⟩ := h
  obtain ⟨m, f, e, es', hm, hf, rfl⟩ := microStep_effect hu
  refine ⟨rfl, es ++ es', ?_, List.forall_mem_append.2 ⟨hes, hf.specified (currentOp_mem hm)⟩⟩
  rw [State.effect, htr, List.append_assoc]

/-- Settles O54: every micro-step appends specified events only. -/
theorem onlyTheSpecifiedCalls : Obligations.OnlyTheSpecifiedCalls := by
  intro i s t e hb h he
  obtain ⟨r, -, rfl⟩ := exec_runOp hb h
  obtain ⟨hcfg, -, htrace, -⟩ := accept_frame r s
  have hstart : SpecifiedSince s.cfg s.trace (accept r s) := ⟨hcfg, [], by simp [htrace], nofun⟩
  obtain ⟨-, es, htr, hes⟩ := runOp_keeps (fun _ _ => SpecifiedSince.microStep) hstart
  rw [appended_eq htr] at he
  exact hes e he

/-! ## The brackets (R66) -/

/-- The micro-ops that neither select nor transfer. -/
def MicroOp.outsideOnly : MicroOp → Bool
  | .wenter | .wpoll _ | .delay | .setres _ | .finish => true
  | .selA | .selD | .tx _ | .rx _ => false

section
variable {b q : Bracket}

/-- No wait, no delay and no register update stands in a bracket. -/
theorem opBracket_outsideOnly {m : MicroOp} (hm : m.outsideOnly = true) (h : opBracket b m = some q) :
    b = .outside ∧ q = .outside := by
  cases m with
  | selA | selD | tx | rx => cases hm
  | wenter | wpoll | delay | setres | finish =>
    cases b with
    | outside => cases h; exact ⟨rfl, rfl⟩
    | opened | sent | answered => cases h

theorem opBracket_selA (h : opBracket b .selA = some q) : b = .outside ∧ q = .opened := by
  cases b with
  | outside => cases h; exact ⟨rfl, rfl⟩
  | opened | sent | answered => cases h

theorem opBracket_tx {frame : List Byte} (h : opBracket b (.tx frame) = some q) : b = .opened ∧ q = .sent frame := by
  cases b with
  | opened => cases h; exact ⟨rfl, rfl⟩
  | outside | sent | answered => cases h

theorem opBracket_rx {n : Nat} (h : opBracket b (.rx n) = some q) :
    ∃ frame, b = .sent frame ∧ isReplyTo frame n = true ∧ q = .answered := by
  cases b with
  | sent frame =>
    obtain ⟨hr, hq⟩ : isReplyTo frame n = true ∧ Bracket.answered = q := by simpa [opBracket] using h
    exact ⟨frame, rfl, hr, hq.symm⟩
  | outside | opened | answered => cases h

theorem opBracket_selD (h : opBracket b .selD = some q) :
    ((∃ frame, b = .sent frame) ∨ b = .answered) ∧ q = .outside := by
  cases b with
  | sent frame => cases h; exact ⟨.inl ⟨frame, rfl⟩, rfl⟩
  | answered => cases h; exact ⟨.inr rfl, rfl⟩
  | outside | opened => cases h

/-- The events of a micro-op go where the micro-op goes when it succeeds, nowhere when it is a poll that goes on, and when
it ends the operation somewhere, which is outside every bracket unless it ended with TransportError. -/
theorem Effect.bracket {c : Cfg} {p : Word} {m : MicroOp} {f : Apc → Apc} {es : List Event} (h : Effect c p m f es)
    (hq : opBracket b m = some q) (a : Apc) :
    ((f a).step = a.step + 1 ∧ (f a).busy = a.busy ∧ brackets b es = some q) ∨
    ((f a).step = a.step ∧ (f a).busy = a.busy ∧ brackets b es = some b) ∨
    ((f a).busy = false ∧ ∃ b', brackets b es = some b' ∧ ((f a).status ≠ .transportError → b' = .outside)) := by
  cases h with
  | wenter | settled | suppressed | delay | setres =>
    obtain ⟨rfl, rfl⟩ := opBracket_outsideOnly rfl hq
    exact .inl ⟨rfl, rfl, rfl⟩
  | notReady =>
    obtain ⟨rfl, -⟩ := opBracket_outsideOnly rfl hq
    exact .inr (.inl ⟨rfl, rfl, rfl⟩)
  | pinFailed | timedOut | finish =>
    obtain ⟨rfl, -⟩ := opBracket_outsideOnly rfl hq
    exact .inr (.inr ⟨rfl, .outside, rfl, fun _ => rfl⟩)
  | asserted =>
    obtain ⟨rfl, rfl⟩ := opBracket_selA hq
    exact .inl ⟨rfl, rfl, rfl⟩
  | assertFailed =>
    obtain ⟨rfl, -⟩ := opBracket_selA hq
    exact .inr (.inr ⟨rfl, .outside, rfl, fun _ => rfl⟩)
  | deasserted =>
    obtain ⟨⟨frame, rfl⟩ | rfl, rfl⟩ := opBracket_selD hq <;> exact .inl ⟨rfl, rfl, rfl⟩
  | deassertFailed =>
    obtain ⟨⟨frame, rfl⟩ | rfl, -⟩ := opBracket_selD hq <;>
      exact .inr (.inr ⟨rfl, _, rfl, fun hne => absurd rfl hne⟩)
  | sent =>
    obtain ⟨rfl, rfl⟩ := opBracket_tx hq
    exact .inl ⟨rfl, rfl, rfl⟩
  | txFailed =>
    obtain ⟨rfl, -⟩ := opBracket_tx hq
    exact .inr (.inr ⟨rfl, _, rfl, fun hne => absurd rfl hne⟩)
  | received =>
    obtain ⟨frame, rfl, hr, rfl⟩ := opBracket_rx hq
    exact .inl ⟨rfl, rfl, by simp [brackets, bracketStep, hr]⟩
  | rxFailed =>
    obtain ⟨frame, rfl, hr, -⟩ := opBracket_rx hq
    exact .inr (.inr ⟨rfl, .answered, by simp [brackets, bracketStep, hr], fun hne => absurd rfl hne⟩)

end

/-- `t` is reached from the trace `k` by events in brackets: while the operation runs they stand where its micro-ops done
stand, and when it ended without TransportError they stand outside. -/
def Bracketed (k : List Event) (t : State) : Prop :=
  ∃ es b, t.trace = k ++ es ∧ brackets .outside es = some b ∧
    (t.apc.busy = true → opBrackets .outside (opsDone t) = some b) ∧
    (t.apc.busy = false → t.apc.status ≠ .transportError → b = .outside)

/-- An operation begins outside a bracket; a request refused has made no call. -/
theorem Bracketed.accept {r : Request} {s : State} (hb : s.apc.busy = false) : Bracketed s.trace (accept r s) := by
  cases hl : requestLegal r with
  | true =>
    rw [accept_legal hb hl]
    exact ⟨[], .outside, (List.append_nil _).symm, rfl, fun _ => rfl, fun _ _ => rfl⟩
  | false =>
    rw [accept_illegal hb hl]
    exact ⟨[], .outside, (List.append_nil _).symm, rfl, fun hb' => (nomatch hb.symm.trans hb'), fun _ _ => rfl⟩

theorem Bracketed.microStep {k : List Event} {t u : State} (h : Bracketed k t) (hu : microStep t = some u) :
    Bracketed k u := by
  obtain ⟨es, b, htr, hes, hrun, -⟩ := h
  obtain ⟨hb, hframe, -⟩ := microStep_spec hu
  obtain ⟨m, f, e, es', hm, hf, rfl⟩ := microStep_effect hu
  obtain ⟨p, q, hp, hq, hdone⟩ := currentOp_bracket hm
  obtain rfl : p = b := Option.some.inj (hp.symm.trans (hrun hb))
  have htr' : (t.effect f e es').trace = k ++ (es ++ es') := by rw [State.effect, htr, List.append_assoc]
  have hes' : brackets .outside (es ++ es') = brackets p es' := by rw [brackets_append, hes]; rfl
  rcases hf.bracket hq t.apc with ⟨hs, hbusy, hgo⟩ | ⟨hs, hbusy, hstay⟩ | ⟨hbusy, b', hend, hout⟩
  · refine ⟨_, q, htr', hes'.trans hgo, fun _ => ?_, fun hidle => ?_⟩
    · rw [opsDone_advanced hframe hm hs, hdone]
    · cases (hbusy.trans hb).symm.trans hidle
  · refine ⟨_, p, htr', hes'.trans hstay, fun _ => ?_, fun hidle => ?_⟩
    · rw [opsDone_stayed hframe hs, hp]
    · cases (hbusy.trans hb).symm.trans hidle
  · exact ⟨_, b', htr', hes'.trans hend, fun hb' => (nomatch hbusy.symm.trans hb'), fun _ => hout⟩

/-- Settles O53: every micro-step keeps the events where the micro-ops done stand. -/
theorem transfersAreBracketed : Obligations.TransfersAreBracketed := by
  intro i s t hb h
  obtain ⟨r, -, rfl⟩ := exec_runOp hb h
  obtain ⟨es, b, htr, hes, -, hend⟩ := runOp_keeps (fun _ _ => Bracketed.microStep) (Bracketed.accept (r := r) hb)
  exact ⟨b, by rw [appended_eq htr, hes], hend⟩

end Sys2Proof.Machine
end

section
/-! SUPPORT. The decoder and the encoder, said once each way (spec/30_encoding.md R101 to R105, R110, R111, R113 to R115): everything a word and a frame can decode to, and what the word and the frame of an instruction decode to. -/

namespace Sys2Proof.Laws

/-! ## The request word (R110) -/

theorem unpackRequest_packRequest (r : Request) : unpackRequest (packRequest r) = r := by
  have below {v w start len : Nat} (x : BitVec v) (y : BitVec w) (h : start + len ≤ w) :
      (x ++ y).extractLsb' start len = y.extractLsb' start len := BitVec.extractLsb'_append_eq_of_add_le h
  obtain ⟨o, reg, pin, cmd, dat⟩ := r
  simp only [unpackRequest, packRequest, Request.mk.injEq, Fields.mk.injEq]
  refine ⟨BitVec.extractLsb'_append_eq_left, ?_, ?_, ?_, ?_⟩
  · exact (below _ _ (by decide)).trans BitVec.extractLsb'_append_eq_left
  · rw [below _ _ (by decide)]
    exact (below _ _ (by decide)).trans BitVec.extractLsb'_append_eq_left
  · rw [below _ _ (by decide), below _ _ (by decide)]
    exact (below _ _ (by decide)).trans BitVec.extractLsb'_append_eq_left
  · rw [below _ _ (by decide), below _ _ (by decide)]
    exact (below _ _ (by decide)).trans BitVec.extractLsb'_append_eq_right

theorem packRequest_unpackRequest (w : ReqWord) : packRequest (unpackRequest w) = w := by
  have join {start len start' len' : Nat} (h : start' = start + len) :
      w.extractLsb' start' len' ++ w.extractLsb' start len = w.extractLsb' start (len' + len) :=
    BitVec.extractLsb'_append_extractLsb'_eq_extractLsb' h
  show w.extractLsb' 52 4 ++ (w.extractLsb' 48 4 ++ (w.extractLsb' 40 8 ++ (w.extractLsb' 32 8 ++
    w.extractLsb' 0 32))) = w
  rw [join (show 32 = 0 + 32 from rfl), join (show 40 = 0 + (8 + 32) from rfl),
    join (show 48 = 0 + (8 + (8 + 32)) from rfl), join (show 52 = 0 + (4 + (8 + (8 + 32))) from rfl)]
  exact BitVec.extractLsb'_eq_self

/-- A request word decodes to the host operation of its code, whose word it is, or its code is unassigned (R111, R114). -/
theorem decodeRequest_cases (w : ReqWord) :
    (∃ i, decodeRequest w = .ok i ∧ i.encodable = true ∧ encode i = .request w ∧
      1 ≤ (unpackRequest w).op.toNat ∧ (unpackRequest w).op.toNat ≤ 8) ∨
    (decodeRequest w = .error (.unassignedOp (unpackRequest w).op) ∧
      ((unpackRequest w).op.toNat = 0 ∨ 9 ≤ (unpackRequest w).op.toNat)) := by
  have hcode : ∀ o : BitVec 4, o = 1#4 ∨ o = 2#4 ∨ o = 3#4 ∨ o = 4#4 ∨ o = 5#4 ∨ o = 6#4 ∨ o = 7#4 ∨ o = 8#4 ∨
      (o.toNat = 0 ∨ 9 ≤ o.toNat) := by decide
  obtain ⟨⟨o, f⟩, rfl⟩ : ∃ r, packRequest r = w := ⟨_, packRequest_unpackRequest w⟩
  simp only [decodeRequest, unpackRequest_packRequest]
  rcases hcode o with rfl | rfl | rfl | rfl | rfl | rfl | rfl | rfl | ho
  · exact .inl ⟨.wreg f, rfl, rfl, rfl, by decide, by decide⟩
  · exact .inl ⟨.rreg f, rfl, rfl, rfl, by decide, by decide⟩
  · exact .inl ⟨.rdid f, rfl, rfl, rfl, by decide, by decide⟩
  · exact .inl ⟨.waitrdy f, rfl, rfl, rfl, by decide, by decide⟩
  · exact .inl ⟨.selch f, rfl, rfl, rfl, by decide, by decide⟩
  · exact .inl ⟨.acq f, rfl, rfl, rfl, by decide, by decide⟩
  · exact .inl ⟨.config f, rfl, rfl, rfl, by decide, by decide⟩
  · exact .inl ⟨.cmd f, rfl, rfl, rfl, by decide, by decide⟩
  · refine .inr ⟨?_, ho⟩
    split
    case h_9 => rfl
    all_goals omega

/-! ## The first byte of a frame (R104, R105) -/

theorem isReadRegByte_iff (b : Byte) : isReadRegByte b = true ↔ b.extractLsb' 4 4 = 0x1#4 := by
  revert b; decide

theorem isWriteRegByte_iff (b : Byte) : isWriteRegByte b = true ↔ b.extractLsb' 4 4 = 0x5#4 := by
  revert b; decide

theorem regNibble_append (o : BitVec 4) (reg : RegAddr) : regNibble (o ++ reg) = reg :=
  BitVec.extractLsb'_append_eq_right

theorem append_regNibble {b : Byte} {o : BitVec 4} (h : b.extractLsb' 4 4 = o) : o ++ regNibble b = b := by
  subst h
  exact BitVec.extractLsb'_append_extractLsb'

theorem operandlessTable_lookup_none {b : Byte} : operandlessTable.lookup b = none ↔ b ∉ operandlessBytes := by
  rw [← Machine.isOperandless_iff, Machine.isOperandless, Option.not_isSome_iff_eq_none]

theorem mem_operandlessBytes {b : Byte} {i : Instr} (h : operandlessTable.lookup b = some i) : b ∈ operandlessBytes := by
  rw [← Machine.isOperandless_iff, Machine.isOperandless, h, Option.isSome_some]

/-- A row of the table is the encoding of its command (R101, R104). -/
theorem encode_of_lookup {b : Byte} {i : Instr} (h : operandlessTable.lookup b = some i) :
    i.encodable = true ∧ encode i = .frame [b] := by
  have hrows : ∀ row ∈ operandlessTable, row.2.encodable = true ∧ encode row.2 = .frame [row.1] := by decide
  obtain ⟨l, l', htable, -⟩ := List.lookup_eq_some_iff.1 h
  exact hrows (b, i) (htable ▸ List.mem_append_right l List.mem_cons_self)

/-! ## Frames (R101 to R103, R113, R115) -/

/-- The first byte is in one of R104's rows. -/
def IsCommandByte (b : Byte) : Prop :=
  b.extractLsb' 4 4 = 0x1#4 ∨ b.extractLsb' 4 4 = 0x5#4 ∨ b ∈ operandlessBytes

/-- Everything a frame with first byte `b` can be read as: one of the three formats R101 to R103, a frame of a command
with too few or too many bytes, or no command. -/
inductive FrameReading (b : Byte) : List Byte → Except DecodeError Instr → Prop where
  | readReg (hb : b.extractLsb' 4 4 = 0x1#4) (c : Byte) : FrameReading b [c] (.ok (.readReg (regNibble b) c))
  | writeReg (hb : b.extractLsb' 4 4 = 0x5#4) (c : Byte) (vs : List Byte) (hl : vs.length = c.toNat + 1) :
    FrameReading b (c :: vs) (.ok (.writeReg (regNibble b) vs))
  | operandless (i : Instr) (hi : operandlessTable.lookup b = some i) : FrameReading b [] (.ok i)
  | wrongLength (hb : IsCommandByte b) (rest : List Byte) (e : DecodeError)
    (he : e = .truncatedFrame ∨ e = .overlongFrame) : FrameReading b rest (.error e)
  | noCommand (hb : ¬ IsCommandByte b) (rest : List Byte) : FrameReading b rest (.error (.undefinedCommand b))

theorem frameReading (b : Byte) (rest : List Byte) : FrameReading b rest (decodeFrame (b :: rest)) := by
  by_cases hread : isReadRegByte b = true
  · have hb := (isReadRegByte_iff b).1 hread
    simp only [decodeFrame, hread, if_true]
    match rest with
    | [] => exact .wrongLength (.inl hb) _ _ (.inl rfl)
    | [c] => exact .readReg hb c
    | _ :: _ :: _ => exact .wrongLength (.inl hb) _ _ (.inr rfl)
  by_cases hwrite : isWriteRegByte b = true
  · have hb := (isWriteRegByte_iff b).1 hwrite
    simp only [decodeFrame, hread, hwrite, if_true]
    match rest with
    | [] => exact .wrongLength (.inr (.inl hb)) _ _ (.inl rfl)
    | c :: vs =>
      by_cases hl : vs.length = c.toNat + 1
      · simp only [hl, if_true]
        exact .writeReg hb c vs hl
      by_cases hshort : vs.length < c.toNat + 1
      · simp only [hl, hshort, if_true, if_false]
        exact .wrongLength (.inr (.inl hb)) _ _ (.inl rfl)
      · simp only [hl, hshort, if_false]
        exact .wrongLength (.inr (.inl hb)) _ _ (.inr rfl)
  simp only [decodeFrame, hread, hwrite]
  cases hi : operandlessTable.lookup b with
  | none =>
    refine .noCommand ?_ _
    rw [IsCommandByte, ← isReadRegByte_iff, ← isWriteRegByte_iff, not_or, not_or]
    exact ⟨hread, hwrite, operandlessTable_lookup_none.1 hi⟩
  | some i =>
    cases rest with
    | nil => exact .operandless i hi
    | cons c vs => exact .wrongLength (.inr (.inr (mem_operandlessBytes hi))) _ _ (.inr rfl)

theorem decode_readReg (reg : RegAddr) (c : Byte) : decode (encode (.readReg reg c)) = .ok (.readReg reg c) := by
  obtain ⟨hread, -, -⟩ := EncodedLength.register_bytes reg
  show (if isReadRegByte (0x1#4 ++ reg) then Except.ok (Instr.readReg (regNibble (0x1#4 ++ reg)) c) else _) = _
  rw [if_pos hread, regNibble_append]

theorem decode_writeReg {reg : RegAddr} {vs : List Byte} (h1 : 1 ≤ vs.length) (h256 : vs.length ≤ 256) :
    decode (encode (.writeReg reg vs)) = .ok (.writeReg reg vs) := by
  obtain ⟨-, hread, hwrite⟩ := EncodedLength.register_bytes reg
  have hcount : vs.length = (BitVec.ofNat 8 (vs.length - 1)).toNat + 1 := by
    rw [BitVec.toNat_ofNat]
    omega
  simp only [decode, encode, decodeFrame, hread, hwrite, ← hcount, Bool.false_eq_true, if_false, if_true,
    regNibble_append]

end Sys2Proof.Laws
end

section
/-! PROOFS. The statements on the encodings (spec/30_encoding.md R101 to R105, R110, R111, R113 to R115). -/

namespace Sys2Proof.Laws

/-- Settles O3, by the format of the instruction's word: a command's frame, a register-targeted frame, a request word. -/
theorem decodeOfEncode : Obligations.DecodeOfEncode := by
  intro i hi
  cases i with
  | wakeup | readData | readDataContinuous | stopContinuous | selfCal | selfOffsetCal | selfGainCal | systemOffsetCal
  | systemGainCal | sync | standby | reset => rfl
  | readReg reg c => exact decode_readReg reg c
  | writeReg reg vs =>
    simp only [Instr.encodable, Bool.and_eq_true, decide_eq_true_eq] at hi
    exact decode_writeReg hi.1 hi.2
  | wreg f | rreg f | rdid f | waitrdy f | selch f | acq f | config f | cmd f =>
    simp only [encode, hostWord, decode, decodeRequest, unpackRequest_packRequest]
    rfl

/-- Settles O4: each thing a word or a frame can decode to has that word or frame. -/
theorem encodeOfDecode : Obligations.EncodeOfDecode := by
  intro p i h
  match p, h with
  | .request w, h =>
    rcases decodeRequest_cases w with ⟨j, hj, henc, hword, -⟩ | ⟨herr, -⟩
    · cases hj.symm.trans h
      exact ⟨henc, hword⟩
    · cases herr.symm.trans h
  | .frame (b :: rest), h =>
    have hread := frameReading b rest
    rw [show decodeFrame (b :: rest) = .ok i from h] at hread
    cases hread with
    | readReg hb c => exact ⟨rfl, by rw [encode, append_regNibble hb]⟩
    | writeReg hb c vs hl =>
      have hc := c.isLt
      refine ⟨?_, ?_⟩
      · simp only [Instr.encodable, Bool.and_eq_true, decide_eq_true_eq]
        omega
      · rw [encode, append_regNibble hb, hl, Nat.add_sub_cancel, BitVec.ofNat_toNat, BitVec.setWidth_eq]
    | operandless _ hi => exact encode_of_lookup hi

/-- Settles O2: each field is read from where it was put, and the fields side by side are the word. -/
theorem requestWordRoundTrip : Obligations.RequestWordRoundTrip :=
  ⟨unpackRequest_packRequest, packRequest_unpackRequest⟩

/-- Settles O5, by everything a word and a frame can decode to. -/
theorem outsideTheTablesRejected : Obligations.OutsideTheTablesRejected := by
  refine ⟨fun w => ?_, fun b rest => ?_⟩
  · show (∃ e, decodeRequest w = .error e) ↔ _
    rcases decodeRequest_cases w with ⟨i, hi, -, -, hlo, hhi⟩ | ⟨herr, hcode⟩
    · rw [hi]
      exact ⟨nofun, fun h => by omega⟩
    · exact ⟨fun _ => hcode, fun _ => ⟨_, herr⟩⟩
  · have hno : (b ∉ operandlessBytes ∧ b.extractLsb' 4 4 ≠ 0x1#4 ∧ b.extractLsb' 4 4 ≠ 0x5#4) ↔
        ¬ IsCommandByte b := by
      rw [IsCommandByte]
      tauto
    have hread := frameReading b rest
    rw [hno]
    show decodeFrame (b :: rest) = _ ↔ _
    generalize decodeFrame (b :: rest) = res at hread
    cases hread with
    | readReg hb c => simp [IsCommandByte, hb]
    | writeReg hb c vs hl => simp [IsCommandByte, hb]
    | operandless i hi => simp [IsCommandByte, mem_operandlessBytes hi]
    | wrongLength hb _ e he => rcases he with rfl | rfl <;> simp [hb]
    | noCommand hb => simp [hb]

end Sys2Proof.Laws
end

section
/-! PROOFS. The pure functions of the encoding and the response (spec/30_encoding.md R108, R109, R112, R113, R118; 60_exceptions.md R260), and SELCH as a write of the multiplexer register (30_encoding.md R117). -/

namespace Sys2Proof.Machine

/-! ## Bytes and codes -/

/-- Settles O1: each word is one of R104's or R111's rows with its operand fields. -/
theorem specWordsDecode : Obligations.SpecWordsDecode :=
  ⟨rfl, rfl, rfl, rfl, rfl, rfl, rfl, rfl, rfl⟩

/-- The channel's low nibble above the common negative code (R108, R190). -/
theorem muxenc_eq_append (pin : Byte) : muxenc pin = pin.extractLsb' 0 4 ++ 0b1000#4 := by
  revert pin; decide

/-- Settles O8: a channel 0 to 7 is its low nibble. -/
theorem muxencPairsCommon : Obligations.MuxencPairsCommon := by
  intro pin hpin
  have hnib : (pin.extractLsb' 0 4).toNat = pin.toNat := by
    rw [BitVec.extractLsb'_toNat, Nat.shiftRight_zero]
    omega
  rw [muxenc_eq_append]
  refine ⟨?_, ?_, BitVec.extractLsb'_append_eq_right⟩
  · rw [BitVec.toNat_append, hnib, ← Nat.shiftLeft_add_eq_or_of_lt (by decide), Nat.shiftLeft_eq, Nat.mul_comm]
    rfl
  · exact (congrArg BitVec.toNat BitVec.extractLsb'_append_eq_left).trans hnib

/-- Settles O10: the two are equal as words, and a nibble is at most 15. -/
theorem chipIdIsHighNibble : Obligations.ChipIdIsHighNibble := by
  intro s
  have hword := congrArg BitVec.toNat (chipId_eq_extract s)
  have hid := (chipId s).isLt
  have hnib := (s.extractLsb' 4 4).isLt
  simp only [BitVec.truncate_eq_setWidth, BitVec.toNat_setWidth] at hword
  omega

/-- Settles O15: the code table read in both directions. -/
theorem responseRecord : Obligations.ResponseRecord := by
  refine ⟨fun _ => rfl, rfl, rfl, rfl, rfl, rfl, fun e => ?_, by decide⟩
  cases e <;> rfl

/-! ## Frames the APC never sends (R113, R118, R142) -/

/-- A WRITE_REG frame means a request only with one byte, or with four bytes from register 0. -/
theorem requestOf_writeReg_none {reg : RegAddr} {vs : List Byte} (h1 : vs.length ≠ 1)
    (h4 : ¬ (vs.length = 4 ∧ reg = 0#4)) :
    requestOf (.writeReg reg vs) = none := by
  refine Option.eq_none_iff_forall_ne_some.2 fun r hr => ?_
  rcases requestOf_writeReg hr with ⟨v, rfl, -⟩ | ⟨v0, v1, v2, v3, rfl, hreg, -⟩
  · exact h1 rfl
  · exact h4 ⟨rfl, hreg⟩

/-- Settles O47: no request for these frames, and no instruction for bytes that are no frame. -/
theorem framesNeverSentAreRefused : Obligations.FramesNeverSentAreRefused := by
  refine ⟨fun s reg c hc => ?_, fun s reg vs h1 h4 => ?_, fun s bytes rest e hr hb hin hd => ?_⟩
  · rw [exec_eq_request, requestOf, if_neg hc]
    rfl
  · rw [exec_eq_request, requestOf_writeReg_none h1 h4]
    rfl
  · rw [step_undecoded hr hb hin hd]
    rfl

/-! ## SELCH and WREG side by side (R117) -/

/-- The registers with another request in the latches. -/
def Apc.relatch (a : Apc) (r : Request) : Apc :=
  { a with op := r.op, aReg := r.fields.reg, aPin := r.fields.pin, aCmd := r.fields.cmd, aDat := r.fields.dat }

/-- No effect reads or writes the latches. -/
theorem Effect.relatch {c : Cfg} {p : Word} {m : MicroOp} {f : Apc → Apc} {es : List Event} (h : Effect c p m f es)
    (a : Apc) (r : Request) : f (a.relatch r) = (f a).relatch r := by
  cases h <;> rfl

/-- Two states at the same place of one micro-program, the second with the request `r` in the latches. -/
structure SameProgram (r : Request) (s s' : State) : Prop where
  state : s' = s.mapApc (·.relatch r)
  program : programOf s'.cfg s'.apc = programOf s.cfg s.apc

theorem SameProgram.microStep {r : Request} {s s' : State} (h : SameProgram r s s') :
    (microStep s = none ∧ microStep s' = none) ∨
    ∃ t t', microStep s = some t ∧ microStep s' = some t' ∧ SameProgram r t t' := by
  obtain ⟨rfl, hprog⟩ := h
  have hcur : currentOp (s.mapApc (·.relatch r)) = currentOp s := congrArg (·[s.apc.step]?) hprog
  cases hb : s.apc.busy with
  | false => exact .inl ⟨microStep_idle hb, microStep_idle hb⟩
  | true =>
    cases hm : currentOp s with
    | none => exact .inl (by simp [Machine.microStep, hcur, hm])
    | some m =>
      have hs := microStep_of hb hm
      have hs' := microStep_of (s := s.mapApc (·.relatch r)) hb (hcur.trans hm)
      rcases sameEffect (s := s) (s' := s.mapApc (·.relatch r)) rfl rfl fun _ _ => rfl with
        ⟨hn, hn'⟩ | ⟨f, e, es, hf, ht, ht'⟩
      · exact .inl ⟨hs.trans hn, hs'.trans hn'⟩
      · obtain ⟨-, hframe, -⟩ := microStep_spec (hs.trans ht)
        obtain ⟨-, hframe', -⟩ := microStep_spec (hs'.trans ht')
        refine .inr ⟨_, _, hs.trans ht, hs'.trans ht', ?_, hframe'.program.trans (hprog.trans hframe.program.symm)⟩
        simp only [State.effect, State.mapApc, hf.relatch]

theorem SameProgram.accepted {q r : Request} {s : State} (h : opsLeft (accepted r s) = opsLeft (accepted q s)) :
    SameProgram r (accepted q s) (accepted r s) := ⟨rfl, h⟩

theorem SameProgram.runOp {r : Request} {s s' : State} (h : SameProgram r s s') : SameProgram r (runOp s) (runOp s') := by
  have hfuel : opFuel s' = opFuel s := by rw [h.state]; rfl
  rw [Machine.runOp, Machine.runOp, hfuel]
  exact runMicro_pair (fun _ _ => SameProgram.microStep) _ s s' h

/-- Settles O59: both operations are one micro-program, and what a micro-op does is the same whatever the latches hold. -/
theorem selchIsWregOfMultiplexer : Obligations.SelchIsWregOfMultiplexer := by
  intro s f g hb hpin hreg hdat
  have hselch : requestLegal ⟨5#4, f⟩ = true := rfl
  have hwreg : requestLegal ⟨1#4, g⟩ = true := (requestLegal_iff _).2 (.inl ⟨.inl rfl, by simp [hreg]⟩)
  have hops : opsLeft (accepted ⟨1#4, g⟩ s) = opsLeft (accepted ⟨5#4, f⟩ s) := by
    rw [opsLeft_wreg, opsLeft_selch hpin, hreg, hdat]
    rfl
  exact ⟨_, _, congrArg Host.Outcome.next (runRequest_legal hb hselch),
    congrArg Host.Outcome.next (runRequest_legal hb hwreg), (SameProgram.accepted hops).runOp.state⟩

end Sys2Proof.Machine
end

section
/-! SUPPORT. Whole operations whose calls are all answered Ok, from acceptance to END: one bracket, one read bracket, one bracket after a wait that settles (spec/20_memory.md R66 to R69; 41_readiness_sync.md R176). -/

namespace Sys2Proof.Machine

/-! ## Instructions as their requests -/

section
variable {i j : Instr} {r : Request} {s : State}

/-- An instruction is nothing but the request it means. -/
theorem exec_congr (h : requestOf i = requestOf j) : exec i s = exec j s := by
  rw [exec_eq_request, exec_eq_request, h]

theorem exec_legal (hr : requestOf i = some r) (hb : s.apc.busy = false) (hl : requestLegal r = true) :
    exec i s = .next (runOp (accepted r s)) := by
  rw [exec_eq_request, hr, Option.elim_some, runRequest_legal hb hl]

theorem exec_illegal (hr : requestOf i = some r) (hb : s.apc.busy = false) (hl : requestLegal r = false) :
    exec i s = .next (refusedIllegal r s) := by
  rw [exec_eq_request, hr, Option.elim_some, runRequest_illegal hb hl]

end

/-- WREG and RREG are legal exactly for registers 0 to 10 (R29). -/
theorem requestLegal_register {r : Request} (ho : r.op = 1#4 ∨ r.op = 2#4) :
    requestLegal r = decide (r.fields.reg.toNat ≤ 10) := by
  rw [Bool.eq_iff_iff, requestLegal_iff, decide_eq_true_iff]
  rcases ho with ho | ho <;> simp [ho]

/-! ## Whole operations -/

section
variable {r : Request} {s : State} {sel : List SelAnswer} {tx : List TxAnswer}

/-- An operation that is one bracket. -/
theorem runOp_bracket {fr : List Byte} (hl : opsLeft (accepted r s) = [.selA, .tx fr, .selD, .finish])
    (hsel : s.env.sel = .ok :: .ok :: sel) (htx : s.env.tx = .ok fr.length :: tx) :
    runOp (accepted r s) = { s with
      apc := { s.apc.latch r with
        busy := false, step := 3, txb := s.apc.txb.load fr, txLen := BitVec.ofNat 3 fr.length, cs := .deasserted,
        status := .ok, done := true }
      env := { s.env with sel := sel, tx := tx }
      trace := s.trace ++ okBracket fr } := by
  refine Leads.runOp_eq ?_ (microStep_idle rfl)
  refine (leads_bracket rfl hl hsel htx).trans ?_
  exact leads_finish rfl (opsLeft_after 3 hl rfl rfl rfl rfl)

/-- An operation that is one read bracket and its result. -/
theorem runOp_readBracket {fr reply : List Byte} {k : ResultKind} {rx : List RxAnswer}
    (hl : opsLeft (accepted r s) = [.selA, .tx fr, .rx reply.length, .selD, .setres k, .finish])
    (hsel : s.env.sel = .ok :: .ok :: sel) (htx : s.env.tx = .ok fr.length :: tx) (hrx : s.env.rx = .ok reply :: rx) :
    runOp (accepted r s) = { s with
      apc := { s.apc.latch r with
        busy := false, step := 5, txb := s.apc.txb.load fr, txLen := BitVec.ofNat 3 fr.length,
        rxb := s.apc.rxb.load reply, cs := .deasserted, res := resultOf k (s.apc.rxb.load reply), resValid := true,
        status := .ok, done := true }
      env := { s.env with sel := sel, tx := tx, rx := rx }
      trace := s.trace ++ okReadBracket fr reply } := by
  refine Leads.runOp_eq ?_ (microStep_idle rfl)
  refine (leads_readBracket rfl hl hsel htx hrx).trans ?_
  refine Leads.trans (leads_setres rfl (opsLeft_after 4 hl rfl rfl rfl rfl)) ?_
  exact leads_finish rfl (opsLeft_after 5 hl rfl rfl rfl rfl)

/-- An operation that is one bracket after a wait that settles. -/
theorem runOp_waitedBracket {tp : TimeoutPolicy} {fr : List Byte} {k : Nat} {pin : List PinAnswer}
    (hl : opsLeft (accepted r s) = [.wenter, .wpoll tp, .selA, .tx fr, .selD, .finish])
    (hk : k < s.cfg.pollBound.toNat) (hpin : s.env.pin = readyAfter s.cfg k pin)
    (hsel : s.env.sel = .ok :: .ok :: sel) (htx : s.env.tx = .ok fr.length :: tx) :
    runOp (accepted r s) = { s with
      apc := { s.apc.latch r with
        busy := false, step := 5, sync := .settled, pollCnt := BitVec.ofNat 32 (k + 1), txb := s.apc.txb.load fr,
        txLen := BitVec.ofNat 3 fr.length, cs := .deasserted, status := .ok, done := true }
      env := { s.env with sel := sel, tx := tx, pin := pin }
      trace := s.trace ++ (notReadyReads s.cfg k ++ [readyRead s.cfg] ++ okBracket fr) } := by
  rw [← List.append_assoc]
  refine Leads.runOp_eq ?_ (microStep_idle rfl)
  refine (leads_wait_settles rfl hl hpin hk).trans ?_
  refine Leads.trans (leads_bracket rfl (opsLeft_after 2 hl rfl rfl rfl rfl) hsel htx) ?_
  exact leads_finish rfl (opsLeft_after 5 hl rfl rfl rfl rfl)

end

/-! ## The bytes of a data word (R110) -/

theorem datOf_low (v : Byte) : datOf v 0#8 0#8 0#8 = v.zeroExtend 32 := by
  revert v; decide

theorem datOf_eq_append (v0 v1 v2 v3 : Byte) : datOf v0 v1 v2 v3 = v3 ++ v2 ++ v1 ++ v0 := by
  rw [datOf, BitVec.append_assoc, BitVec.append_assoc]
  rfl

theorem datOf_bytes (v0 v1 v2 v3 : Byte) :
    (datOf v0 v1 v2 v3).extractLsb' 0 8 = v0 ∧ (datOf v0 v1 v2 v3).extractLsb' 8 8 = v1 ∧
    (datOf v0 v1 v2 v3).extractLsb' 16 8 = v2 ∧ (datOf v0 v1 v2 v3).extractLsb' 24 8 = v3 := by
  rw [datOf]
  refine ⟨?_, ?_, ?_, BitVec.extractLsb'_append_eq_left⟩
  · rw [BitVec.extractLsb'_append_eq_of_add_le (by decide), BitVec.extractLsb'_append_eq_of_add_le (by decide)]
    exact BitVec.extractLsb'_append_eq_right
  · rw [BitVec.extractLsb'_append_eq_of_add_le (by decide), BitVec.extractLsb'_append_eq_of_add_le (by decide)]
    exact BitVec.extractLsb'_append_eq_left
  · rw [BitVec.extractLsb'_append_eq_of_add_le (by decide)]
    exact BitVec.extractLsb'_append_eq_left

end Sys2Proof.Machine
end

section
/-! PROOFS. The statements on the command encoder (spec/40_command_encoder.md R140 to R157): its two frame builders, and the wire commands presented by themselves (log 1). -/

namespace Sys2Proof.Machine

/-! ## The frame builders (R140, R141) -/

/-- A count of 1 to 256 is a byte less one (R106). -/
theorem countByte_toNat {n : Nat} (h : n ≤ 256) : (countByte n).toNat = n - 1 :=
  Nat.mod_eq_of_lt (by omega)

/-- Settles O6: the count byte holds any count up to 256. -/
theorem encwIsWriteFrame : Obligations.EncwIsWriteFrame :=
  fun _ _ _ _ h256 => ⟨_, _, rfl, rfl, countByte_toNat h256, rfl⟩

/-- Settles O7: the count byte holds any count up to 256. -/
theorem encrIsReadFrame : Obligations.EncrIsReadFrame :=
  fun _ _ _ _ h256 => ⟨_, _, rfl, rfl, countByte_toNat h256⟩

/-! ## CMD and the operand-less wire commands (R143 to R146, R149 to R157) -/

/-- Settles O32: CMD is one bracket. -/
theorem cmdSendsCommand : Obligations.CmdSendsCommand := by
  intro s f sel tx hb hcmd hsel htx
  have hlegal : requestLegal ⟨8#4, f⟩ = true := (isOperandless_iff f.cmd).2 hcmd
  exact (exec_legal rfl hb hlegal).trans (congrArg _ (runOp_bracket (opsLeft_cmd f s) hsel htx))

/-- A row of R104's operand-less table is CMD with its byte (log 1). -/
theorem requestOf_operandless {c : Byte} {i : Instr} (h : (c, i) ∈ operandlessTable) :
    requestOf i = some (cmdRequest c) ∧ c ∈ operandlessBytes := by
  have hrows : ∀ row ∈ operandlessTable, requestOf row.2 = some (cmdRequest row.1) ∧ row.1 ∈ operandlessBytes := by
    decide
  exact hrows (c, i) h

/-- Settles O33: each command is a row of the table, and so CMD with its byte. -/
theorem wireCommandsSendTheirByte : Obligations.WireCommandsSendTheirByte := by
  intro s sel tx i c hmem hb hsel htx
  obtain ⟨hreq, hc⟩ := requestOf_operandless ((List.mem_map_swap c i operandlessTable).1 hmem)
  have hcmd : requestOf i = requestOf (.cmd (cmdRequest c).fields) := hreq
  exact (exec_congr hcmd).trans (cmdSendsCommand s _ sel tx hb hc hsel htx)

/-! ## READ_REG and WRITE_REG by themselves (R147, R148) -/

/-- Settles O45: READ_REG with count 1 is RREG, one read bracket, by whether the register is one of the 11. -/
theorem readRegFrameIsRreg : Obligations.ReadRegFrameIsRreg := by
  intro s reg hb
  have hlegal : requestLegal (rregRequest reg) = decide (reg.toNat ≤ 10) := requestLegal_register (.inr rfl)
  refine ⟨fun b sel tx rx hreg hsel htx hrx => ?_, fun hreg => ?_⟩
  · have hrun := runOp_readBracket (reply := [b]) (opsLeft_rreg (rregRequest reg).fields s) hsel htx hrx
    exact (exec_legal rfl hb (hlegal.trans (decide_eq_true hreg))).trans (congrArg _ hrun)
  · exact exec_illegal rfl hb (hlegal.trans (decide_eq_false (Nat.not_le.2 hreg)))

/-- WREG's frame for the request of a one-byte WRITE_REG. -/
theorem opsLeft_wregRequest (reg : RegAddr) (v : Byte) (s : State) :
    opsLeft (accepted (wregRequest reg v) s) = [.wenter, .wpoll s.cfg.onWriteWaitTimeout, .selA,
      .tx [0x50#8 ||| reg.zeroExtend 8, 0x00#8, v], .selD, .finish] := by
  obtain ⟨hv, -, -, -⟩ := datOf_bytes v 0#8 0#8 0#8
  rw [wregRequest, opsLeft_wreg, hv]

/-- CONFIG's frame for the request of a four-byte WRITE_REG. -/
theorem opsLeft_configRequest (v0 v1 v2 v3 : Byte) (s : State) :
    opsLeft (accepted (configRequest v0 v1 v2 v3) s) = [.wenter, .wpoll s.cfg.onWriteWaitTimeout, .selA,
      .tx [0x50#8, 0x03#8, v0, v1, v2, v3], .selD, .finish] := by
  obtain ⟨h0, h1, h2, h3⟩ := datOf_bytes v0 v1 v2 v3
  rw [configRequest, opsLeft_config, h0, h1, h2, h3]

/-- Settles O46: WRITE_REG is WREG or CONFIG, one bracket after the wait. -/
theorem writeRegFrameIsWregOrConfig : Obligations.WriteRegFrameIsWregOrConfig := by
  intro s hb
  have hlegal (reg : RegAddr) (v : Byte) : requestLegal (wregRequest reg v) = decide (reg.toNat ≤ 10) :=
    requestLegal_register (.inl rfl)
  simp only [← datOf_low, ← datOf_eq_append]
  refine ⟨fun reg v k pin sel tx hreg hk hpin hsel htx => ?_, fun reg v hreg => ?_,
    fun v0 v1 v2 v3 k pin sel tx hk hpin hsel htx => ?_⟩
  · have hrun := runOp_waitedBracket (opsLeft_wregRequest reg v s) hk hpin hsel htx
    exact (exec_legal rfl hb ((hlegal reg v).trans (decide_eq_true hreg))).trans (congrArg _ hrun)
  · exact exec_illegal rfl hb ((hlegal reg v).trans (decide_eq_false (Nat.not_le.2 hreg)))
  · have hrun := runOp_waitedBracket (opsLeft_configRequest v0 v1 v2 v3 s) hk hpin hsel htx
    exact (exec_legal rfl hb rfl).trans (congrArg _ hrun)

end Sys2Proof.Machine
end

section
/-! PROOFS. One poll of the readiness line (spec/41_readiness_sync.md R172 to R175). -/

namespace Sys2Proof.Machine

/-! ## What one read does, by its answer -/

/-- The answers that settle a wait: the ready level (R173), and an error under TreatAsReady (R175). -/
def PinAnswer.Settles (c : Cfg) (a : PinAnswer) : Prop :=
  a = .ok c.readyLevel ∨ a = .err ∧ c.onPinReadError = .treatAsReady

section
variable {s : State}

theorem pollAnswered_settles {a : PinAnswer} (ha : a.Settles s.cfg) : pollAnswered a s = settleWait s := by
  rcases ha with rfl | ⟨rfl, herr⟩
  · exact if_pos rfl
  · rw [pollAnswered, herr]

theorem pollAnswered_notReady : pollAnswered (.ok s.cfg.notReadyLevel) s = s :=
  if_neg (Level.other_ne s.cfg.readyLevel)

theorem pollAnswered_failed (herr : s.cfg.onPinReadError = .propagateError) :
    pollAnswered .err s = s.raise .transportError := by
  rw [pollAnswered, herr]

end

/-! ## The statements on one poll -/

/-- Settles O29: below the bound a poll is one read, by its answer. -/
theorem pollReadsLine : Obligations.PollReadsLine := by
  intro s tp a rest hb hm hp hpin read
  have hread : microStep s = some (pollAnswered a read) := (microStep_of hb hm).trans (poll_answered hp hpin)
  rw [hread]
  refine ⟨?_, ?_, ?_, ?_⟩
  · intro ha
    exact congrArg some (pollAnswered_settles (s := read) (.inl ha))
  · rintro rfl
    exact congrArg some (pollAnswered_notReady (s := read))
  · rintro rfl herr
    exact congrArg some (pollAnswered_failed (s := read) herr)
  · intro ha herr
    exact congrArg some (pollAnswered_settles (s := read) (.inr ⟨ha, herr⟩))

/-- Settles O30: at the bound a poll is the timeout, by its policy. -/
theorem pollTimesOut : Obligations.PollTimesOut := by
  intro s tp hb hm hp
  have htimeout : microStep s = some (pollTimedOut tp s) :=
    (microStep_of hb hm).trans (poll_exhausted (hp ▸ BitVec.lt_irrefl _))
  rw [htimeout]
  refine ⟨?_, ?_⟩ <;> rintro rfl <;> rfl

end Sys2Proof.Machine
end

section
/-! SUPPORT. Operations that begin with a wait, from acceptance to where the wait ends: on a read that settles it, on a read that fails, at the bound (spec/41_readiness_sync.md R171 to R177). -/

namespace Sys2Proof.Machine

/-! ## The wait in a run -/

section
variable {tp : TimeoutPolicy} {ms : List MicroOp} {s : State} {k : Nat} {a : PinAnswer} {rest : List PinAnswer}

/-- A wait up to the answer of read `k`, below the bound, that decides it (R172). -/
theorem leads_wait_read (hb : s.apc.busy = true) (hl : opsLeft s = .wenter :: .wpoll tp :: ms)
    (hpin : s.env.pin = List.replicate k (.ok s.cfg.notReadyLevel) ++ a :: rest) (hk : k < s.cfg.pollBound.toNat) :
    Leads s (pollAnswered a { s with
      apc := { s.apc with step := s.apc.step + 1, sync := .polling, pollCnt := BitVec.ofNat 32 (k + 1) }
      env := { s.env with pin := rest }
      trace := s.trace ++ (notReadyReads s.cfg k ++ [.pin s.cfg.drdyPinId a]) }) := by
  have hcount : (0#32 + BitVec.ofNat 32 k).toNat = k := by
    have hlt := s.cfg.pollBound.isLt
    rw [BitVec.zero_add, BitVec.toNat_ofNat, Nat.mod_eq_of_lt (by omega)]
  have hbelow : 0#32 + BitVec.ofNat 32 k < s.cfg.pollBound := by rw [BitVec.lt_def, hcount]; exact hk
  refine (leads_wenter hb hl).trans ?_
  refine Leads.trans (leads_notReady k hb (opsLeft_after 1 hl rfl rfl rfl rfl) hpin (by simp; omega)) (.one ?_)
  refine Eq.trans (microStep_left hb (opsLeft_after 1 hl rfl rfl rfl rfl)) ?_
  refine (poll_answered hbelow rfl).trans ?_
  simp only [Apc.countRead, BitVec.zero_add, BitVec.ofNat_add, List.append_assoc]

/-- `s` after a wait that settled on the answer `a` of read `k`, with the answers `rest` still to come. -/
def waitSettled (s : State) (k : Nat) (a : PinAnswer) (rest : List PinAnswer) : State :=
  { s with
    apc := { s.apc with step := s.apc.step + 2, sync := .settled, pollCnt := BitVec.ofNat 32 (k + 1) }
    env := { s.env with pin := rest }
    trace := s.trace ++ (notReadyReads s.cfg k ++ [.pin s.cfg.drdyPinId a]) }

/-- A wait that settles on read `k` (R173, R175). -/
theorem leads_wait_settled (hb : s.apc.busy = true) (hl : opsLeft s = .wenter :: .wpoll tp :: ms)
    (hpin : s.env.pin = List.replicate k (.ok s.cfg.notReadyLevel) ++ a :: rest) (hk : k < s.cfg.pollBound.toNat)
    (ha : a.Settles s.cfg) : Leads s (waitSettled s k a rest) := by
  have hread := leads_wait_read hb hl hpin hk
  rwa [pollAnswered_settles (by exact ha)] at hread

end

/-! ## The operations that wait (R177, R178) -/

/-- Instruction `i` is the legal request `r`, whose operation waits under `tp` before `ms`. -/
structure Waits (i : Instr) (r : Request) (tp : TimeoutPolicy) (ms : List MicroOp) (s : State) : Prop where
  request : requestOf i = some r
  legal : requestLegal r = true
  ops : opsLeft (accepted r s) = .wenter :: .wpoll tp :: ms

theorem requestLegal_wreg {f : Fields} (hreg : f.reg.toNat ≤ 10) : requestLegal ⟨1#4, f⟩ = true :=
  (requestLegal_register (.inl rfl)).trans (decide_eq_true hreg)

section
variable (f : Fields) (s : State)

theorem waits_waitrdy : Waits (.waitrdy f) ⟨4#4, f⟩ .propagate [.finish] s := ⟨rfl, rfl, opsLeft_waitrdy f s⟩

theorem waits_rdid : Waits (.rdid f) ⟨3#4, f⟩ .propagate
    [.selA, .tx [0x10#8, 0x00#8], .rx 1, .selD, .setres .chipId, .finish] s :=
  ⟨rfl, rfl, opsLeft_rdid f s⟩

theorem waits_config : Waits (.config f) ⟨7#4, f⟩ s.cfg.onWriteWaitTimeout
    [.selA, .tx [0x50#8, 0x03#8, f.dat.extractLsb' 0 8, f.dat.extractLsb' 8 8, f.dat.extractLsb' 16 8,
      f.dat.extractLsb' 24 8], .selD, .finish] s :=
  ⟨rfl, rfl, opsLeft_config f s⟩

theorem waits_wreg {f : Fields} (hreg : f.reg.toNat ≤ 10) : Waits (.wreg f) ⟨1#4, f⟩ s.cfg.onWriteWaitTimeout
    [.selA, .tx [0x50#8 ||| f.reg.zeroExtend 8, 0x00#8, f.dat.extractLsb' 0 8], .selD, .finish] s :=
  ⟨rfl, requestLegal_wreg hreg, opsLeft_wreg f s⟩

theorem waits_selch {f : Fields} (hpin : f.pin.toNat ≤ 7) : Waits (.selch f) ⟨5#4, f⟩ s.cfg.onWriteWaitTimeout
    [.selA, .tx [0x51#8, 0x00#8, muxenc f.pin], .selD, .finish] s :=
  ⟨rfl, rfl, opsLeft_selch hpin⟩

theorem waits_acq {f : Fields} (hpin : f.pin.toNat ≤ 7) :
    ∃ ms, Waits (.acq f) ⟨6#4, f⟩ s.cfg.onWriteWaitTimeout ms s :=
  ⟨_, rfl, rfl, opsLeft_acq hpin⟩

/-- A one-byte WRITE_REG frame waits as the WREG it is (log 1). -/
theorem waits_writeReg_one {reg : RegAddr} (v : Byte) (hreg : reg.toNat ≤ 10) :
    ∃ ms, Waits (.writeReg reg [v]) (wregRequest reg v) s.cfg.onWriteWaitTimeout ms s :=
  ⟨_, rfl, requestLegal_wreg hreg, opsLeft_wregRequest reg v s⟩

/-- A four-byte WRITE_REG frame waits as the CONFIG it is (log 1). -/
theorem waits_writeReg_four (v0 v1 v2 v3 : Byte) :
    ∃ ms, Waits (.writeReg 0#4 [v0, v1, v2, v3]) (configRequest v0 v1 v2 v3) s.cfg.onWriteWaitTimeout ms s :=
  ⟨_, rfl, rfl, opsLeft_configRequest v0 v1 v2 v3 s⟩

end

/-! ## An operation whose wait decides it -/

section
variable {i : Instr} {r : Request} {tp : TimeoutPolicy} {ms : List MicroOp} {s : State} {pin : List PinAnswer}

theorem Waits.exec_eq (h : Waits i r tp ms s) (hb : s.apc.busy = false) : exec i s = .next (runOp (accepted r s)) :=
  exec_legal h.request hb h.legal

/-- Under Propagate, a wait that reaches the bound aborts its operation (R174). -/
theorem Waits.exec_timedOut (h : Waits i r .propagate ms s) (hb : s.apc.busy = false)
    (hpin : s.env.pin = List.replicate s.cfg.pollBound.toNat (.ok s.cfg.notReadyLevel) ++ pin) :
    exec i s = .next { s with
      apc := { s.apc.latch r with
        busy := false, step := 1, sync := .polling, pollCnt := s.cfg.pollBound, status := .timeoutError, done := true }
      env := { s.env with pin := pin }
      trace := s.trace ++ notReadyReads s.cfg s.cfg.pollBound.toNat } := by
  rw [h.exec_eq hb]
  exact congrArg _ ((leads_wait_exhausted rfl h.ops hpin).runOp_eq (microStep_idle rfl))

/-- Under Suppress, a wait that reaches the bound is followed by the bracket of a write all the same (R174, R177). -/
theorem Waits.exec_suppressed {fr : List Byte} {sel : List SelAnswer} {tx : List TxAnswer}
    (h : Waits i r .suppress [.selA, .tx fr, .selD, .finish] s) (hb : s.apc.busy = false)
    (hpin : s.env.pin = List.replicate s.cfg.pollBound.toNat (.ok s.cfg.notReadyLevel) ++ pin)
    (hsel : s.env.sel = .ok :: .ok :: sel) (htx : s.env.tx = .ok fr.length :: tx) :
    exec i s = .next { s with
      apc := { s.apc.latch r with
        busy := false, step := 5, sync := .polling, pollCnt := s.cfg.pollBound, txb := s.apc.txb.load fr,
        txLen := BitVec.ofNat 3 fr.length, cs := .deasserted, status := .ok, done := true }
      env := { s.env with sel := sel, tx := tx, pin := pin }
      trace := s.trace ++ (notReadyReads s.cfg s.cfg.pollBound.toNat ++ okBracket fr) } := by
  rw [h.exec_eq hb, ← List.append_assoc]
  refine congrArg _ (Leads.runOp_eq ?_ (microStep_idle rfl))
  refine (leads_wait_exhausted rfl h.ops hpin).trans ?_
  refine Leads.trans (leads_bracket rfl (opsLeft_after 2 h.ops rfl rfl rfl rfl) hsel htx) ?_
  exact leads_finish rfl (opsLeft_after 5 h.ops rfl rfl rfl rfl)

variable {k : Nat} {a : PinAnswer}

/-- Under PropagateError, a read that fails aborts the operation whatever the timeout policy (R175). -/
theorem Waits.exec_pinFailed (h : Waits i r tp ms s) (hb : s.apc.busy = false)
    (herr : s.cfg.onPinReadError = .propagateError) (hk : k < s.cfg.pollBound.toNat)
    (hpin : s.env.pin = List.replicate k (.ok s.cfg.notReadyLevel) ++ .err :: pin) :
    exec i s = .next { s with
      apc := { s.apc.latch r with
        busy := false, step := 1, sync := .polling, pollCnt := BitVec.ofNat 32 (k + 1), status := .transportError,
        done := true }
      env := { s.env with pin := pin }
      trace := s.trace ++ (notReadyReads s.cfg k ++ [.pin s.cfg.drdyPinId .err]) } := by
  have hread := leads_wait_read rfl h.ops hpin hk
  rw [pollAnswered_failed (by exact herr)] at hread
  rw [h.exec_eq hb]
  exact congrArg _ (hread.runOp_eq (microStep_idle rfl))

/-- WAITRDY ends where its wait settles (R178). -/
theorem exec_waitrdy_settled {f : Fields} (hb : s.apc.busy = false) (ha : a.Settles s.cfg)
    (hk : k < s.cfg.pollBound.toNat)
    (hpin : s.env.pin = List.replicate k (.ok s.cfg.notReadyLevel) ++ a :: pin) :
    exec (.waitrdy f) s = .next { s with
      apc := { s.apc.latch ⟨4#4, f⟩ with
        busy := false, step := 2, sync := .settled, pollCnt := BitVec.ofNat 32 (k + 1), status := .ok, done := true }
      env := { s.env with pin := pin }
      trace := s.trace ++ (notReadyReads s.cfg k ++ [.pin s.cfg.drdyPinId a]) } := by
  have hw := waits_waitrdy f s
  rw [hw.exec_eq hb]
  refine congrArg _ (Leads.runOp_eq ?_ (microStep_idle rfl))
  refine (leads_wait_settled rfl hw.ops hpin hk ha).trans ?_
  exact leads_finish rfl (opsLeft_after 2 hw.ops rfl rfl rfl rfl)

end

/-! ## One operation after two pasts -/

/-- One state after two pasts: `s` and `s'` differ in nothing but how their traces, `p` and `p'` so far, began. -/
def SameButPast (p p' : List Event) (s s' : State) : Prop :=
  ∃ es, s.trace = p ++ es ∧ s' = { s with trace := p' ++ es }

theorem SameButPast.microStep {p p' : List Event} {s s' : State} (h : SameButPast p p' s s') :
    (microStep s = none ∧ microStep s' = none) ∨
    ∃ t t', microStep s = some t ∧ microStep s' = some t' ∧ SameButPast p p' t t' := by
  obtain ⟨es, htr, rfl⟩ := h
  refine (microStep_pair (s := s) (s' := { s with trace := p' ++ es }) rfl rfl rfl rfl rfl fun _ _ => rfl).imp_right ?_
  rintro ⟨m, f, e, es', -, -, hs, hs'⟩
  refine ⟨_, _, hs, hs', es ++ es', ?_, ?_⟩
  · rw [State.effect, htr, List.append_assoc]
  · rw [State.effect, State.effect, List.append_assoc]

/-- No operation reads the trace. -/
theorem SameButPast.runOp {p p' : List Event} {s s' : State} (h : SameButPast p p' s s') :
    SameButPast p p' (runOp s) (runOp s') := by
  have hfuel : opFuel s' = opFuel s := by
    obtain ⟨es, -, rfl⟩ := h
    rfl
  rw [Machine.runOp, Machine.runOp, hfuel]
  exact runMicro_pair (fun _ _ => SameButPast.microStep) _ s s' h

/-- Two waits that settle on the same read differ in the event of that read. -/
theorem sameButPast_waitSettled (s : State) (k : Nat) (a a' : PinAnswer) (rest : List PinAnswer) :
    SameButPast (waitSettled s k a rest).trace (waitSettled s k a' rest).trace
      (waitSettled s k a rest) (waitSettled s k a' rest) :=
  ⟨[], (List.append_nil _).symm, congrArg (State.mk _ _ _ _ _) (List.append_nil _).symm⟩

/-- An operation whose wait settles does what it does when the deciding read answers ready (R175). -/
theorem Waits.exec_as_ready {i : Instr} {r : Request} {tp : TimeoutPolicy} {ms : List MicroOp} {s : State} {k : Nat}
    {a : PinAnswer} {pin : List PinAnswer} (h : Waits i r tp ms s) (hb : s.apc.busy = false) (ha : a.Settles s.cfg)
    (hk : k < s.cfg.pollBound.toNat)
    (hpin : s.env.pin = List.replicate k (.ok s.cfg.notReadyLevel) ++ a :: pin) :
    ∃ (t : State) (es : List Event),
      exec i { s with env := { s.env with pin := readyAfter s.cfg k pin } } = .next t ∧
      t.trace = s.trace ++ (notReadyReads s.cfg k ++ readyRead s.cfg :: es) ∧
      exec i s = .next { t with
        trace := s.trace ++ (notReadyReads s.cfg k ++ .pin s.cfg.drdyPinId a :: es) } := by
  have hready : Waits i r tp ms { s with env := { s.env with pin := readyAfter s.cfg k pin } } :=
    ⟨h.request, h.legal, h.ops⟩
  have hrun : runOp (accepted r s) = runOp (waitSettled (accepted r s) k a pin) :=
    (leads_wait_settled rfl h.ops hpin hk ha).runOp_trans
  have hrun' : runOp (accepted r { s with env := { s.env with pin := readyAfter s.cfg k pin } }) =
      runOp (waitSettled (accepted r s) k (.ok s.cfg.readyLevel) pin) :=
    (leads_wait_settled rfl hready.ops rfl hk (.inl rfl)).runOp_trans
  obtain ⟨es, htr, hend⟩ := (sameButPast_waitSettled (accepted r s) k (.ok s.cfg.readyLevel) a pin).runOp
  have hassoc (e : Event) : s.trace ++ (notReadyReads s.cfg k ++ [e]) ++ es =
      s.trace ++ (notReadyReads s.cfg k ++ e :: es) := by
    rw [List.append_assoc, List.append_assoc, List.singleton_append]
  refine ⟨_, es, hready.exec_eq hb, ?_, ?_⟩
  · rw [hrun', htr, ← hassoc]
    rfl
  · rw [h.exec_eq hb, hrun, hrun', hend, ← hassoc]
    rfl

end Sys2Proof.Machine
end

section
/-! PROOFS. The statements on the readiness synchronizer (spec/41_readiness_sync.md R171 to R179; 43_acquisition.md R208; 60_exceptions.md R262). -/

namespace Sys2Proof.Machine

/-- Settles O34: the ready level settles the wait. -/
theorem waitrdySettles : Obligations.WaitrdySettles :=
  fun _ _ _ _ hb hpin hk => exec_waitrdy_settled hb (.inl rfl) hk hpin

/-- Settles O35: WAITRDY and RDID wait under Propagate whatever the write policy is. -/
theorem explicitWaitsTimeOut : Obligations.ExplicitWaitsTimeOut := by
  intro s f i o pin hi hb hpin
  rcases hi with ⟨rfl, rfl⟩ | ⟨rfl, rfl⟩
  · exact (waits_waitrdy f s).exec_timedOut hb hpin
  · exact (waits_rdid f s).exec_timedOut hb hpin

/-- Settles O48: under Propagate the write's wait is one that aborts at the bound. -/
theorem writeWaitTimeoutAborts : Obligations.WriteWaitTimeoutAborts := by
  intro s f i o pin hi hb hpol hpin
  have hw : ∃ ms, Waits i ⟨o, f⟩ s.cfg.onWriteWaitTimeout ms s := by
    rcases hi with ⟨rfl, rfl, hreg⟩ | ⟨rfl, rfl⟩ | ⟨rfl, rfl, hch⟩ | ⟨rfl, rfl, hch⟩
    · exact ⟨_, waits_wreg s hreg⟩
    · exact ⟨_, waits_config f s⟩
    · exact ⟨_, waits_selch s hch⟩
    · exact waits_acq s hch
  obtain ⟨ms, hw⟩ := hw
  exact (hpol ▸ hw).exec_timedOut hb hpin

/-- Settles O49: each of the three writes is one bracket after its wait. -/
theorem writeWaitTimeoutSuppressed : Obligations.WriteWaitTimeoutSuppressed := by
  intro s f i o fr pin sel tx hi hb hpol hpin hsel htx
  have hw : Waits i ⟨o, f⟩ s.cfg.onWriteWaitTimeout [.selA, .tx fr, .selD, .finish] s := by
    rcases hi with ⟨rfl, rfl, hreg, rfl⟩ | ⟨rfl, rfl, rfl⟩ | ⟨rfl, rfl, hch, rfl⟩
    · exact waits_wreg s hreg
    · exact waits_config f s
    · exact waits_selch s hch
  exact (hpol ▸ hw).exec_suppressed hb hpin hsel htx

/-- Settles O36: under PropagateError the failed read ends the operation where it waits; under TreatAsReady it settles the
wait, and what comes after the wait does not read the trace. -/
theorem pinErrorPolicies : Obligations.PinErrorPolicies := by
  intro s f k pin hb hk hpin
  refine ⟨fun herr i o v v0 v1 v2 v3 hi => ?_, fun herr =>
    ⟨exec_waitrdy_settled hb (.inr ⟨rfl, herr⟩) hk hpin, fun i v v0 v1 v2 v3 hi => ?_⟩⟩
  · have hw : ∃ tp ms, Waits i ⟨o, f⟩ tp ms s := by
      rw [← datOf_low, ← datOf_eq_append] at hi
      rcases hi with ⟨rfl, rfl⟩ | ⟨rfl, rfl⟩ | ⟨rfl, rfl⟩ | ⟨rfl, rfl, hreg⟩ | ⟨rfl, rfl, hch⟩ | ⟨rfl, rfl, hch⟩ |
        ⟨rfl, rfl, hreg, hf⟩ | ⟨rfl, rfl, rfl⟩
      · exact ⟨_, _, waits_waitrdy f s⟩
      · exact ⟨_, _, waits_rdid f s⟩
      · exact ⟨_, _, waits_config f s⟩
      · exact ⟨_, _, waits_wreg s hreg⟩
      · exact ⟨_, _, waits_selch s hch⟩
      · exact ⟨_, waits_acq s hch⟩
      · rw [hf]; exact ⟨_, waits_writeReg_one s v hreg⟩
      · exact ⟨_, waits_writeReg_four s v0 v1 v2 v3⟩
    obtain ⟨tp, ms, hw⟩ := hw
    exact hw.exec_pinFailed hb herr hk hpin
  · have hw : ∃ r tp ms, Waits i r tp ms s := by
      rcases hi with rfl | rfl | rfl | ⟨rfl, hreg⟩ | ⟨rfl, hch⟩ | ⟨rfl, hch⟩ | ⟨rfl, hreg⟩ | rfl
      · exact ⟨_, _, _, waits_waitrdy f s⟩
      · exact ⟨_, _, _, waits_rdid f s⟩
      · exact ⟨_, _, _, waits_config f s⟩
      · exact ⟨_, _, _, waits_wreg s hreg⟩
      · exact ⟨_, _, _, waits_selch s hch⟩
      · exact ⟨_, _, waits_acq s hch⟩
      · exact ⟨_, _, waits_writeReg_one s v hreg⟩
      · exact ⟨_, _, waits_writeReg_four s v0 v1 v2 v3⟩
    obtain ⟨r, tp, ms, hw⟩ := hw
    exact hw.exec_as_ready hb (.inr ⟨rfl, herr⟩) hk hpin

end Sys2Proof.Machine
end

section
/-! PROOFS. The statements on channel selection (spec/42_channel_mux.md R191, R192). -/

namespace Sys2Proof.Machine

/-- Settles O39: SELCH is one bracket after its wait; the byte it writes is `muxenc` of the channel (R190). -/
theorem selchWritesMultiplexer : Obligations.SelchWritesMultiplexer := by
  intro s f k pin sel tx hb hch hk hpin hsel htx
  have hw := waits_selch s hch
  exact (hw.exec_eq hb).trans (congrArg _ (runOp_waitedBracket hw.ops hk hpin hsel htx))

/-- Settles O40: END is all there is to run, so nothing is waited for, read or sent. -/
theorem selchAboveSevenIsNoOp : Obligations.SelchAboveSevenIsNoOp := by
  intro s f hb hch
  have hl : opsLeft (accepted ⟨5#4, f⟩ s) = [.finish] := opsLeft_selch_invalid hch
  have hrun := (leads_finish rfl hl).runOp_eq (microStep_idle rfl)
  exact (exec_legal rfl hb rfl).trans (congrArg _ hrun)

end Sys2Proof.Machine
end

section
/-! PROOFS. A failed call is the last call of its operation (spec/43_acquisition.md R207; 60_exceptions.md R261, R267, R269). -/

namespace Sys2Proof.Machine

/-- The operation may go on after `e`: its call did not fail, or it is a failed read of the line under TreatAsReady. -/
def Event.Tolerated (c : Cfg) (e : Event) : Prop :=
  e.failed = true → ∃ id, e = .pin id .err ∧ c.onPinReadError = .treatAsReady

theorem Event.tolerated_of_ok {c : Cfg} {e : Event} (h : e.failed = false) : e.Tolerated c :=
  fun hf => nomatch h.symm.trans hf

/-- The operation has ended with TransportError (R267). -/
def State.TransportFailed (t : State) : Prop :=
  t.apc.busy = false ∧ t.apc.done = true ∧ t.apc.status = .transportError

/-- What a micro-op appends is tolerated, or it is one event and the micro-op aborts with TransportError. -/
theorem Effect.tolerated {s : State} {m : MicroOp} {f : Apc → Apc} {es : List Event}
    (h : Effect s.cfg s.apc.pollCnt m f es) (v : Env) :
    (∀ e ∈ es, e.Tolerated s.cfg) ∨ ((∃ e, es = [e]) ∧ (s.effect f v es).TransportFailed) := by
  cases h with
  | wenter | timedOut | suppressed | setres | finish => exact .inl nofun
  | notReady | asserted | deasserted | delay =>
    exact .inl (List.forall_mem_singleton.2 (Event.tolerated_of_ok rfl))
  | sent | received =>
    exact .inl (List.forall_mem_singleton.2 (Event.tolerated_of_ok (by simp [Event.failed])))
  | settled _ a _ ha =>
    refine .inl (List.forall_mem_singleton.2 ?_)
    rcases ha with rfl | ⟨rfl, herr⟩
    · exact Event.tolerated_of_ok rfl
    · exact fun _ => ⟨_, rfl, herr⟩
  | pinFailed | assertFailed | deassertFailed | txFailed | rxFailed => exact .inr ⟨⟨_, rfl⟩, rfl, rfl, rfl⟩

/-- `t` is reached from the trace `k` by tolerated events, but for the last one where the operation has ended with
TransportError. -/
def FailedLast (c : Cfg) (k : List Event) (t : State) : Prop :=
  t.cfg = c ∧ ∃ es, t.trace = k ++ es ∧
    ((∀ e ∈ es, e.Tolerated c) ∨ ((∀ e ∈ es.dropLast, e.Tolerated c) ∧ t.TransportFailed))

theorem FailedLast.microStep {c : Cfg} {k : List Event} {t u : State} (h : FailedLast c k t)
    (hu : microStep t = some u) : FailedLast c k u := by
  obtain ⟨rfl, es, htr, htol | ⟨-, hidle, -⟩⟩ := h
  · obtain ⟨m, f, v, es', -, hf, rfl⟩ := microStep_effect hu
    refine ⟨rfl, es ++ es', by rw [State.effect, htr, List.append_assoc], ?_⟩
    rcases hf.tolerated v with htol' | ⟨⟨e, rfl⟩, hend⟩
    · exact .inl (List.forall_mem_append.2 ⟨htol, htol'⟩)
    · exact .inr ⟨by rwa [List.dropLast_concat], hend⟩
  · rw [microStep_idle hidle] at hu
    cases hu

/-- Settles O55: a micro-step whose call failed ends the operation, and no micro-step follows its end. -/
theorem nothingFollowsAFailure : Obligations.NothingFollowsAFailure := by
  intro i s t es es' e hb h happ hfail
  obtain ⟨r, -, rfl⟩ := exec_runOp hb h
  obtain ⟨hcfg, -, htrace, -⟩ := accept_frame r s
  have hstart : FailedLast s.cfg s.trace (accept r s) := ⟨hcfg, [], by simp [htrace], .inl nofun⟩
  obtain ⟨-, all, htr, hall⟩ := runOp_keeps (fun _ _ => FailedLast.microStep) hstart
  obtain rfl : all = es ++ e :: es' := (appended_eq htr).symm.trans happ
  rcases hall with htol | ⟨htol, hend⟩
  · exact .inl (htol e (by simp) hfail)
  · cases es' with
    | nil => exact .inr ⟨rfl, hend⟩
    | cons e' rest => exact .inl (htol e (by simp) hfail)

end Sys2Proof.Machine
end

section
/-! PROOFS. The acquisition of a sample whose calls are all answered Ok: for a channel 0 to 7 after a wait that settles or whose timeout is suppressed, for a channel above 7 without a selection (spec/43_acquisition.md R201 to R209). -/

namespace Sys2Proof.Machine

/-- Steps 2 to 8 of an acquisition (R201): SYNC, WAKEUP, the delay, READ_DATA with its reply, the result. -/
def sampleOps : List MicroOp :=
  [.selA, .tx [0xFC#8], .selD, .selA, .tx [0x00#8], .selD, .delay,
   .selA, .tx [0x01#8], .rx 3, .selD, .setres .sample, .finish]

/-- The events of steps 2 to 8, every call answered Ok. -/
def sampleEvents (b0 b1 b2 : Byte) : List Event :=
  okBracket [0xFC#8] ++ okBracket [0x00#8] ++ [.delay] ++ okReadBracket [0x01#8] [b0, b1, b2]

/-- `s` after steps 2 to 8 read the bytes `b0`, `b1`, `b2`, with the answers `sel`, `tx` and `rx` still to come. -/
def sampled (s : State) (b0 b1 b2 : Byte) (sel : List SelAnswer) (tx : List TxAnswer) (rx : List RxAnswer) : State :=
  { s with
    apc := { s.apc with
      busy := false, step := s.apc.step + 12, txb := { s.apc.txb with b0 := 0x01#8 }, txLen := 1#3,
      rxb := ⟨b0, b1, b2⟩, cs := .deasserted, res := decodeSample b0 b1 b2, resValid := true, status := .ok,
      done := true }
    env := { s.env with sel := sel, tx := tx, rx := rx }
    trace := s.trace ++ sampleEvents b0 b1 b2 }

section
variable {s : State} {b0 b1 b2 : Byte} {sel : List SelAnswer} {tx : List TxAnswer} {rx : List RxAnswer}

/-- Steps 2 to 8, which every acquisition ends with (R202 to R206). -/
theorem leads_sampled (hb : s.apc.busy = true) (hl : opsLeft s = sampleOps)
    (hsel : s.env.sel = List.replicate 6 .ok ++ sel) (htx : s.env.tx = .ok 1 :: .ok 1 :: .ok 1 :: tx)
    (hrx : s.env.rx = .ok [b0, b1, b2] :: rx) : Leads s (sampled s b0 b1 b2 sel tx rx) := by
  simp only [sampled, sampleEvents, ← List.append_assoc]
  refine (leads_bracket hb hl hsel htx).trans ?_
  refine Leads.trans (leads_bracket hb (opsLeft_after 3 hl rfl rfl rfl rfl) rfl rfl) ?_
  refine Leads.trans (leads_delay hb (opsLeft_after 6 hl rfl rfl rfl rfl)) ?_
  refine Leads.trans (leads_readBracket (reply := [b0, b1, b2]) hb (opsLeft_after 7 hl rfl rfl rfl rfl) rfl rfl hrx) ?_
  refine Leads.trans (leads_setres hb (opsLeft_after 11 hl rfl rfl rfl rfl)) ?_
  exact leads_finish hb (opsLeft_after 12 hl rfl rfl rfl rfl)

/-- What follows the wait for a channel 0 to 7: the bracket of the multiplexer write, then steps 2 to 8 (R201). -/
theorem leads_selected_sampled {fr : List Byte} (hb : s.apc.busy = true)
    (hl : opsLeft s = .selA :: .tx fr :: .selD :: sampleOps)
    (hsel : s.env.sel = List.replicate 8 .ok ++ sel) (htx : s.env.tx = .ok fr.length :: .ok 1 :: .ok 1 :: .ok 1 :: tx)
    (hrx : s.env.rx = .ok [b0, b1, b2] :: rx) :
    Leads s (sampled { s with
      apc := { s.apc with
        step := s.apc.step + 3, cs := .deasserted, txb := s.apc.txb.load fr, txLen := BitVec.ofNat 3 fr.length }
      trace := s.trace ++ okBracket fr } b0 b1 b2 sel tx rx) :=
  (leads_bracket hb hl hsel htx).trans (leads_sampled hb (opsLeft_after 3 hl rfl rfl rfl rfl) rfl rfl hrx)

/-- `s` with the operation of request `r` past its wait: `sync` left at `y`, `n` reads counted, with the events `reads` and
the answers `pin` still to come. -/
def waited (r : Request) (s : State) (y : Sync) (n : Word) (reads : List Event) (pin : List PinAnswer) : State :=
  { s with
    apc := { s.apc.latch r with busy := true, step := 2, sync := y, pollCnt := n }
    env := { s.env with pin := pin }
    trace := s.trace ++ reads }

/-- An acquisition of a channel 0 to 7 whose wait went on to the multiplexer write, settled or not (R201, R208). -/
theorem exec_acq_waited {f : Fields} {y : Sync} {n : Word} {reads : List Event} {pin : List PinAnswer}
    (hb : s.apc.busy = false) (hch : f.pin.toNat ≤ 7)
    (hwait : Leads (accepted ⟨6#4, f⟩ s) (waited ⟨6#4, f⟩ s y n reads pin))
    (hsel : s.env.sel = List.replicate 8 .ok ++ sel) (htx : s.env.tx = .ok 3 :: .ok 1 :: .ok 1 :: .ok 1 :: tx)
    (hrx : s.env.rx = .ok [b0, b1, b2] :: rx) :
    exec (.acq f) s = .next { s with
      apc := { s.apc.latch ⟨6#4, f⟩ with
        busy := false, step := 17, sync := y, pollCnt := n,
        txb := { s.apc.txb with b0 := 0x01#8, b1 := 0x00#8, b2 := muxenc f.pin }, txLen := 1#3,
        rxb := ⟨b0, b1, b2⟩, cs := .deasserted,
        res := decodeSample b0 b1 b2, resValid := true, status := .ok, done := true }
      env := { s.env with sel := sel, tx := tx, rx := rx, pin := pin }
      trace := s.trace ++ (reads ++ okBracket [0x51#8, 0x00#8, muxenc f.pin] ++ okBracket [0xFC#8] ++
        okBracket [0x00#8] ++ [.delay] ++ okReadBracket [0x01#8] [b0, b1, b2]) } := by
  have hleft : opsLeft (waited ⟨6#4, f⟩ s y n reads pin) =
      .selA :: .tx [0x51#8, 0x00#8, muxenc f.pin] :: .selD :: sampleOps :=
    opsLeft_after 2 (opsLeft_acq (s := s) hch) rfl rfl rfl rfl
  have hrun := (hwait.trans (leads_selected_sampled rfl hleft hsel htx hrx)).runOp_eq (microStep_idle rfl)
  refine (exec_legal rfl hb rfl).trans (congrArg _ (hrun.trans (congrArg (State.mk _ _ _ _ _) ?_)))
  simp only [waited, sampleEvents, List.append_assoc]

end

/-- Settles O43: the wait settles, and the acquisition goes on. -/
theorem acqReadsSample : Obligations.AcqReadsSample := by
  intro s f k b0 b1 b2 pin sel tx rx hb hch hk hpin hsel htx hrx
  exact exec_acq_waited hb hch (leads_wait_settles rfl (opsLeft_acq hch) hpin hk) hsel htx hrx

/-- Settles O44: no wait and no multiplexer write; steps 2 to 8 are all there is to run. -/
theorem acqAboveSevenStillAcquires : Obligations.AcqAboveSevenStillAcquires := by
  intro s f b0 b1 b2 sel tx rx hb hch hsel htx hrx
  have hrun := (leads_sampled rfl (opsLeft_acq_invalid hch) hsel htx hrx).runOp_eq (microStep_idle rfl)
  exact (exec_legal rfl hb rfl).trans (congrArg _ hrun)

/-- Settles O50: under Suppress the wait that reaches its bound goes on as well. -/
theorem acqSuppressedTimeoutGivesSample : Obligations.AcqSuppressedTimeoutGivesSample := by
  intro s f b0 b1 b2 pin sel tx rx hb hch hpol hpin hsel htx hrx
  have hwait := leads_wait_exhausted rfl (opsLeft_acq (s := s) hch) hpin
  rw [hpol] at hwait
  exact exec_acq_waited hb hch hwait hsel htx hrx

end Sys2Proof.Machine
end

section
/-! PROOFS. The statements on register access (spec/44_register_access.md R220 to R223). -/

namespace Sys2Proof.Machine

section
variable {i : Instr} {r : Request} {tp : TimeoutPolicy} {s : State} {fr reply : List Byte} {k : Nat}
  {pin : List PinAnswer} {sel : List SelAnswer} {tx : List TxAnswer} {rx : List RxAnswer}

/-- An instruction that is one bracket after a wait that settles (R176). -/
theorem Waits.exec_bracket (h : Waits i r tp [.selA, .tx fr, .selD, .finish] s) (hb : s.apc.busy = false)
    (hk : k < s.cfg.pollBound.toNat) (hpin : s.env.pin = readyAfter s.cfg k pin)
    (hsel : s.env.sel = .ok :: .ok :: sel) (htx : s.env.tx = .ok fr.length :: tx) :
    exec i s = .next { s with
      apc := { s.apc.latch r with
        busy := false, step := 5, sync := .settled, pollCnt := BitVec.ofNat 32 (k + 1), txb := s.apc.txb.load fr,
        txLen := BitVec.ofNat 3 fr.length, cs := .deasserted, status := .ok, done := true }
      env := { s.env with sel := sel, tx := tx, pin := pin }
      trace := s.trace ++ (notReadyReads s.cfg k ++ [readyRead s.cfg] ++ okBracket fr) } :=
  (h.exec_eq hb).trans (congrArg _ (runOp_waitedBracket h.ops hk hpin hsel htx))

/-- An instruction that is one read bracket and its result after a wait that settles (R176). -/
theorem Waits.exec_readBracket {kind : ResultKind}
    (h : Waits i r tp [.selA, .tx fr, .rx reply.length, .selD, .setres kind, .finish] s) (hb : s.apc.busy = false)
    (hk : k < s.cfg.pollBound.toNat) (hpin : s.env.pin = readyAfter s.cfg k pin)
    (hsel : s.env.sel = .ok :: .ok :: sel) (htx : s.env.tx = .ok fr.length :: tx) (hrx : s.env.rx = .ok reply :: rx) :
    exec i s = .next { s with
      apc := { s.apc.latch r with
        busy := false, step := 7, sync := .settled, pollCnt := BitVec.ofNat 32 (k + 1), txb := s.apc.txb.load fr,
        txLen := BitVec.ofNat 3 fr.length, rxb := s.apc.rxb.load reply, cs := .deasserted,
        res := resultOf kind (s.apc.rxb.load reply), resValid := true, status := .ok, done := true }
      env := { s.env with sel := sel, tx := tx, rx := rx, pin := pin }
      trace := s.trace ++ (notReadyReads s.cfg k ++ [readyRead s.cfg] ++ okReadBracket fr reply) } := by
  rw [h.exec_eq hb, ← List.append_assoc]
  refine congrArg _ (Leads.runOp_eq ?_ (microStep_idle rfl))
  refine (leads_wait_settles rfl h.ops hpin hk).trans ?_
  refine Leads.trans (leads_readBracket rfl (opsLeft_after 2 h.ops rfl rfl rfl rfl) hsel htx hrx) ?_
  refine Leads.trans (leads_setres rfl (opsLeft_after 6 h.ops rfl rfl rfl rfl)) ?_
  exact leads_finish rfl (opsLeft_after 7 h.ops rfl rfl rfl rfl)

end

/-- CONFIG by the four bytes of its data word (R110). -/
theorem waits_config_bytes {f : Fields} {v0 v1 v2 v3 : Byte} (hdat : f.dat = v3 ++ v2 ++ v1 ++ v0) (s : State) :
    Waits (.config f) ⟨7#4, f⟩ s.cfg.onWriteWaitTimeout
      [.selA, .tx [0x50#8, 0x03#8, v0, v1, v2, v3], .selD, .finish] s := by
  obtain ⟨h0, h1, h2, h3⟩ := datOf_bytes v0 v1 v2 v3
  have hw := waits_config f s
  rwa [hdat, ← datOf_eq_append, h0, h1, h2, h3] at hw

/-- Settles O37: WREG is one bracket after its wait. -/
theorem wregWritesRegister : Obligations.WregWritesRegister := by
  intro s f k pin sel tx hb hreg hk hpin hsel htx
  exact (waits_wreg s hreg).exec_bracket hb hk hpin hsel htx

/-- Settles O38: CONFIG is one bracket after its wait, and its frame carries the bytes of the data word. -/
theorem configWritesFourRegisters : Obligations.ConfigWritesFourRegisters := by
  intro s f k v0 v1 v2 v3 pin sel tx hb hdat hk hpin hsel htx
  exact (waits_config_bytes hdat s).exec_bracket hb hk hpin hsel htx

/-- Settles O41: RREG is one read bracket, with nothing to wait for. -/
theorem rregReadsRegister : Obligations.RregReadsRegister := by
  intro s f b sel tx rx hb hreg hsel htx hrx
  have hlegal : requestLegal ⟨2#4, f⟩ = true := (requestLegal_register (.inr rfl)).trans (decide_eq_true hreg)
  have hrun := runOp_readBracket (reply := [b]) (opsLeft_rreg f s) hsel htx hrx
  exact (exec_legal rfl hb hlegal).trans (congrArg _ hrun)

/-- Settles O42: RDID is one read bracket after its wait, and its result is the chip id of the byte read (R109). -/
theorem rdidReadsChipId : Obligations.RdidReadsChipId := by
  intro s f k b pin sel tx rx hb hk hpin hsel htx hrx
  rw [← chipId_eq_extract]
  exact (waits_rdid f s).exec_readBracket (reply := [b]) hb hk hpin hsel htx hrx

end Sys2Proof.Machine
end

section
/-! PROOFS. The sample decoder (spec/45_sample_decoder.md R250, R251): it is the sign extension of the 24 bits of the sample, and the law of R251 is what sign extension says of a 24-bit number. -/

namespace Sys2Proof.Machine

/-! ## The 24 bits of the sample -/

/-- The shifted bytes do not overlap (R253): their number is the three bytes side by side. -/
theorem toNat_sampleBytes (b0 b1 b2 : Byte) :
    (b0 ++ b1 ++ b2).toNat = 65536 * b0.toNat + 256 * b1.toNat + b2.toNat := by
  have h1 := b1.isLt
  have h2 := b2.isLt
  rw [BitVec.toNat_append, BitVec.toNat_append, ← Nat.shiftLeft_add_eq_or_of_lt h1,
    ← Nat.shiftLeft_add_eq_or_of_lt h2, Nat.shiftLeft_eq, Nat.shiftLeft_eq]
  omega

/-- The sign bit of the sample is the top bit of the first byte (R250). -/
theorem msb_sampleBytes (b0 b1 b2 : Byte) : (b0 ++ b1 ++ b2).msb = b0.getLsbD 7 := by
  rw [BitVec.msb_append, if_neg (by decide), BitVec.msb_append, if_neg (by decide)]
  exact BitVec.msb_eq_getLsbD_last b0

theorem rawSample_eq_setWidth (b0 b1 b2 : Byte) : rawSample b0 b1 b2 = (b0 ++ b1 ++ b2).setWidth 32 := by
  rw [rawSample, BitVec.setWidth_append_append_eq_shiftLeft_setWidth_or]

theorem rawSample_eq_append (b0 b1 b2 : Byte) : rawSample b0 b1 b2 = 0x00#8 ++ (b0 ++ b1 ++ b2) :=
  (rawSample_eq_setWidth b0 b1 b2).trans (BitVec.setWidth_eq_append (by decide))

theorem rawSample_getLsbD_sign (b0 b1 b2 : Byte) : (rawSample b0 b1 b2).getLsbD 23 = b0.getLsbD 7 := by
  rw [rawSample_eq_setWidth, BitVec.getLsbD_setWidth, ← msb_sampleBytes b0 b1 b2, BitVec.msb_eq_getLsbD_last]
  rfl

/-! ## The decoder -/

/-- The conditional OR of R250 puts eight copies of the sign above the 24 bits of the sample. -/
theorem decodeSample_eq_append (b0 b1 b2 : Byte) :
    decodeSample b0 b1 b2 = (if b0.getLsbD 7 then 0xFF#8 else 0x00#8) ++ (b0 ++ b1 ++ b2) := by
  have hmask : 0xFF000000#32 = 0xFF#8 ++ 0#24 := by decide
  rw [decodeSample, rawSample_getLsbD_sign, rawSample_eq_append]
  split
  · rw [hmask, BitVec.or_append, BitVec.zero_or, BitVec.or_zero]
  · rfl

theorem decodeSample_eq_signExtend (b0 b1 b2 : Byte) : decodeSample b0 b1 b2 = (b0 ++ b1 ++ b2).signExtend 32 := by
  rw [decodeSample_eq_append, BitVec.signExtend_eq_append_of_le (by decide), msb_sampleBytes]
  rfl

/-- As an integer the decoder is the balanced residue of its input modulo 2^24. -/
theorem toInt_decodeSample (b0 b1 b2 : Byte) :
    (decodeSample b0 b1 b2).toInt = Int.bmod (65536 * b0.toNat + 256 * b1.toNat + b2.toNat : Nat) (2 ^ 24) := by
  rw [decodeSample_eq_signExtend, BitVec.toInt_signExtend_eq_toNat_bmod, toNat_sampleBytes]
  rfl

/-- Settles O9: the balanced residue is the one of its range, so both halves of the round trip follow from residue and
range. -/
theorem sampleDecodeLaw : Obligations.SampleDecodeLaw := by
  intro b0 b1 b2 raw result
  have hresult : result = Int.bmod raw (2 ^ 24) := toInt_decodeSample b0 b1 b2
  have hraw : raw < 2 ^ 24 := (toNat_sampleBytes b0 b1 b2).symm.trans_lt (b0 ++ b1 ++ b2).isLt
  have hmod : result % 2 ^ 24 = raw := by
    rw [hresult]
    exact Int.bmod_emod.trans (Int.emod_eq_of_lt (by omega) (by exact_mod_cast hraw))
  have hlow : -(2 ^ 23) ≤ result := hresult ▸ Int.le_bmod (by decide)
  have hhigh : result ≤ 2 ^ 23 - 1 := Int.le_sub_one_of_lt (hresult ▸ Int.bmod_lt (by decide))
  refine ⟨fun h => by omega, fun h => by omega, ⟨hmod, hlow, hhigh⟩, fun n hn hnlow hnhigh => by omega, ?_, ?_⟩
  · rw [decodeSample_eq_append, BitVec.extractLsb'_append_eq_right]
    exact toNat_sampleBytes b0 b1 b2
  · rw [decodeSample_eq_append]
    exact BitVec.extractLsb'_append_eq_left

end Sys2Proof.Machine
end

section
/-! PROOFS. Aborts and illegal requests (spec/60_exceptions.md R261, R262, R264, R267). -/

namespace Sys2Proof.Machine

/-! ## What an abort leaves (R267) -/

/-- The registers as a micro-op that raises `e` has written them before the abort: the send buffer of a TX (R68), the
count of a poll whose read failed (R172). -/
def MicroOp.wrote (m : MicroOp) (e : Status) (a : Apc) : Apc :=
  match m, e with
  | .tx frame, _ => a.loadTx frame
  | .wpoll _, .transportError => a.countRead
  | _, _ => a

section
variable {m : MicroOp} {e : Status} {a : Apc}

theorem MicroOp.wrote_of_not_tx (h : ∀ frame, m ≠ .tx frame) :
    (m.wrote e a).txb = a.txb ∧ (m.wrote e a).txLen = a.txLen := by
  unfold MicroOp.wrote
  split
  · exact absurd rfl (h _)
  · exact ⟨rfl, rfl⟩
  · exact ⟨rfl, rfl⟩

theorem MicroOp.wrote_of_not_poll (h : ∀ tp, m ≠ .wpoll tp) : (m.wrote e a).pollCnt = a.pollCnt := by
  unfold MicroOp.wrote
  split
  · rfl
  · exact absurd rfl (h _)
  · rfl

/-- An abort changes the outcome and, of the other registers, only the ones `wrote` speaks of. -/
theorem MicroOp.abort_wrote (m : MicroOp) (e : Status) (a : Apc) :
    (m.wrote e a).abort e = { a with
      status := e, done := true, busy := false,
      txb := (m.wrote e a).txb, txLen := (m.wrote e a).txLen, pollCnt := (m.wrote e a).pollCnt } := by
  unfold MicroOp.wrote
  split <;> rfl

end

/-- A transfer that did not bring the bytes asked for has failed (R78). -/
theorem Event.failed_rx {n : Nat} {a : RxAnswer} (ha : ∀ bytes, a = .ok bytes → bytes.length ≠ n) :
    (Event.rx n a).failed = true := by
  cases a with
  | ok bytes => exact bne_iff_ne.2 (ha bytes rfl)
  | err => rfl

/-- A micro-op that ends its operation, and not with OK, is an abort with one of two codes on top of what the micro-op
wrote; all it can append is the call that failed. -/
theorem Effect.aborted {c : Cfg} {p : Word} {m : MicroOp} {f : Apc → Apc} {es : List Event} (h : Effect c p m f es)
    {a : Apc} (hb : a.busy = true) (hidle : (f a).busy = false) (hne : (f a).status ≠ .ok) :
    ∃ e, (e = .transportError ∨ e = .timeoutError) ∧ f a = (m.wrote e a).abort e ∧
      (es = [] ∨ ∃ ev, ev.failed = true ∧ es = [ev]) := by
  cases h with
  | finish => exact absurd rfl hne
  | timedOut => exact ⟨_, .inr rfl, rfl, .inl rfl⟩
  | pinFailed | assertFailed | deassertFailed => exact ⟨_, .inl rfl, rfl, .inr ⟨_, rfl, rfl⟩⟩
  | txFailed frame answer ha => exact ⟨_, .inl rfl, rfl, .inr ⟨.tx frame answer, bne_iff_ne.2 ha, rfl⟩⟩
  | rxFailed n answer ha => exact ⟨_, .inl rfl, rfl, .inr ⟨_, Event.failed_rx ha, rfl⟩⟩
  | wenter | settled | notReady | suppressed | asserted | deasserted | sent | received | delay | setres =>
    cases hb.symm.trans hidle

/-- Settles O31: the micro-step is an abort on top of what its micro-op wrote, so each clause is one of `wrote`. -/
theorem abortChangesOnlyOutcome : Obligations.AbortChangesOnlyOutcome := by
  intro s t h hidle hne
  obtain ⟨hb, -, -⟩ := microStep_spec h
  obtain ⟨m, f, v, es, hm, hf, rfl⟩ := microStep_effect h
  obtain ⟨e, he, hfa, hes⟩ := hf.aborted hb hidle hne
  have hapc : (s.effect f v es).apc = (m.wrote e s.apc).abort e := hfa
  rw [hapc, hm]
  refine ⟨he, m.abort_wrote e s.apc, ?_, fun hfr => ?_, ?_, fun htp => ?_, rfl, rfl, rfl, ?_⟩
  · rintro fr ⟨⟩
    exact ⟨rfl, rfl⟩
  · exact MicroOp.wrote_of_not_tx fun fr hfr' => hfr fr (congrArg some hfr')
  · rintro tp ⟨⟩
    exact ⟨by rintro rfl; rfl, by rintro rfl; rfl⟩
  · exact MicroOp.wrote_of_not_poll fun tp htp' => htp tp (congrArg some htp')
  · rcases hes with rfl | ⟨ev, hev, rfl⟩
    · exact .inl (List.append_nil _)
    · exact .inr ⟨ev, hev, rfl⟩

/-! ## Illegal requests (R264) -/

theorem requestLegal_register_out {r : Request} (ho : r.op = 1#4 ∨ r.op = 2#4) (h : 10 < r.fields.reg.toNat) :
    requestLegal r = false :=
  (requestLegal_register ho).trans (decide_eq_false (Nat.not_le.2 h))

/-- CMD is legal exactly for the twelve operand-less commands (R29). -/
theorem requestLegal_cmd (f : Fields) : requestLegal ⟨8#4, f⟩ = operandlessBytes.contains f.cmd := by
  rw [Bool.eq_iff_iff, List.contains_iff_mem]
  exact isOperandless_iff f.cmd

/-- Settles O13: each of these requests is illegal, and an illegal request is refused at its acceptance. -/
theorem illegalRequestEndsAtOnce : Obligations.IllegalRequestEndsAtOnce := by
  refine ⟨fun s f hb hreg => ⟨?_, ?_⟩, fun s f hb hcmd => ?_, fun s w rest hr hb hin hop => ?_⟩
  · exact exec_illegal rfl hb (requestLegal_register_out (.inl rfl) hreg)
  · exact exec_illegal rfl hb (requestLegal_register_out (.inr rfl) hreg)
  · refine exec_illegal rfl hb ?_
    rw [requestLegal_cmd, Bool.eq_false_iff, Ne, List.contains_iff_mem]
    exact hcmd
  · obtain ⟨hreject, -⟩ := Laws.outsideTheTablesRejected
    obtain ⟨e, hd⟩ := (hreject w).2 hop
    rw [step_undecoded hr hb hin hd]
    exact congrArg Host.Outcome.next (accept_illegal hb (undecoded_illegal hd))

end Sys2Proof.Machine
end

section
/-! PROOFS. The matrix of errors by operation (spec/60_exceptions.md R270): its rows are what the micro-ops of the
operations can end them with. -/

namespace Sys2Proof.Machine

/-! ## The codes a micro-op can end its operation with -/

/-- END ends with OK (R31), a select or a transfer with TransportError (R261), a poll with TransportError under
PropagateError (R175) and with TimeoutError under Propagate (R174); the other micro-ops end nothing. -/
def MicroOp.canEnd (c : Cfg) : MicroOp → Status → Bool
  | .finish, e => e == .ok
  | .selA, e | .selD, e | .tx _, e | .rx _, e => e == .transportError
  | .wpoll tp, e =>
    e == .transportError && c.onPinReadError == .propagateError || e == .timeoutError && tp == .propagate
  | .wenter, _ | .delay, _ | .setres _, _ => false

/-- One of `ms` can end its operation with `e`. -/
def opsCanEnd (c : Cfg) (ms : List MicroOp) (e : Status) : Bool := ms.any (·.canEnd c e)

theorem Effect.canEnd {c : Cfg} {p : Word} {m : MicroOp} {f : Apc → Apc} {es : List Event} (h : Effect c p m f es)
    {a : Apc} (hb : a.busy = true) (hidle : (f a).busy = false) : m.canEnd c (f a).status = true := by
  cases h with
  | finish | timedOut | assertFailed | deassertFailed | txFailed | rxFailed => rfl
  | pinFailed _ _ ha => simp [MicroOp.canEnd, ha]
  | wenter | settled | notReady | suppressed | asserted | deasserted | sent | received | delay | setres =>
    cases hb.symm.trans hidle

/-- An operation that has ended has ended with a code of its micro-program. -/
def EndedByProgram (s : State) : Prop :=
  s.apc.busy = false → opsCanEnd s.cfg (programOf s.cfg s.apc) s.apc.status = true

theorem EndedByProgram.of_microStep {s t : State} (h : microStep s = some t) : EndedByProgram t := by
  intro hidle
  obtain ⟨hb, hframe, -⟩ := microStep_spec h
  obtain ⟨m, f, v, es, hm, hf, rfl⟩ := microStep_effect h
  rw [hframe.program]
  exact List.any_eq_true.2 ⟨m, currentOp_mem hm, hf.canEnd hb hidle⟩

/-- A legal request ends, if it does, with a code of its micro-program. -/
theorem runOp_canEnd {r : Request} {s : State} (hidle : (runOp (accepted r s)).apc.busy = false) :
    opsCanEnd s.cfg (opsLeft (accepted r s)) (runOp (accepted r s)).apc.status = true := by
  have hstart : EndedByProgram (accepted r s) := nofun
  have hend := runOp_keeps (fun _ _ _ => EndedByProgram.of_microStep) hstart hidle
  have hframe := runOp_frame (accepted r s)
  rwa [hframe.program, hframe.cfg] at hend

/-! ## The rows of the matrix -/

/-- The micro-op reads the readiness line. -/
def MicroOp.polls : MicroOp → Bool
  | .wpoll _ => true
  | .wenter | .selA | .selD | .tx _ | .rx _ | .delay | .setres _ | .finish => false

section
variable {c : Cfg} {e : Status} {ms : List MicroOp}

/-- Micro-ops that select and end but do not poll have the row of an operation without a wait. -/
theorem opsCanEnd_noWait (hfin : .finish ∈ ms) (hpoll : ms.all (!·.polls) = true) :
    opsCanEnd c (.selA :: ms) e = noWaitOutcome true e := by
  have hall : (MicroOp.selA :: ms).all (!·.polls) = true := hpoll
  have hno : ∀ m ∈ MicroOp.selA :: ms, e ≠ .ok → e ≠ .transportError → m.canEnd c e = false := by
    intro m hm hok htr
    have hm' := List.all_eq_true.1 hall m hm
    cases m with
    | wpoll => cases hm'
    | finish => exact beq_eq_false_iff_ne.2 hok
    | selA | selD | tx | rx => exact beq_eq_false_iff_ne.2 htr
    | wenter | delay | setres => rfl
  cases e with
  | ok => exact List.any_eq_true.2 ⟨_, List.mem_cons_of_mem _ hfin, rfl⟩
  | transportError => exact List.any_eq_true.2 ⟨_, List.mem_cons_self, rfl⟩
  | timeoutError | invalidChannel | illegalRequest =>
    exact List.any_eq_false.2 fun m hm => Bool.eq_false_iff.1 (hno m hm nofun nofun)

/-- A wait adds the codes of its poll. -/
theorem opsCanEnd_wait (tp : TimeoutPolicy) (ms : List MicroOp) :
    opsCanEnd c (.wenter :: .wpoll tp :: ms) e = ((MicroOp.wpoll tp).canEnd c e || opsCanEnd c ms e) := rfl

/-- A wait under the write policy before micro-ops that do not poll has the row of a write. -/
theorem opsCanEnd_write (hfin : .finish ∈ ms) (hpoll : ms.all (!·.polls) = true) :
    opsCanEnd c (.wenter :: .wpoll c.onWriteWaitTimeout :: .selA :: ms) e = writeOutcome c true e := by
  rw [opsCanEnd_wait, opsCanEnd_noWait hfin hpoll]
  cases e <;> simp [MicroOp.canEnd, noWaitOutcome, writeOutcome]

end

section
variable {i : Instr} {r : Request}

/-- IllegalRequest stands in the row of an instruction exactly when its request is illegal (R264). -/
theorem outcomeAllowed_illegalRequest (c : Cfg) (hr : requestOf i = some r) :
    outcomeAllowed c i .illegalRequest = !requestLegal r := by
  cases i with
  | wreg f => cases hr; rw [requestLegal_register (.inl rfl)]; rfl
  | rreg f => cases hr; rw [requestLegal_register (.inr rfl)]; rfl
  | cmd f => cases hr; rw [requestLegal_cmd]; rfl
  | readReg reg n =>
    obtain ⟨-, rfl⟩ := requestOf_readReg hr
    rw [requestLegal_register (.inr rfl)]; rfl
  | writeReg reg vs =>
    obtain ⟨v, -, rfl⟩ | ⟨v0, v1, v2, v3, -, rfl, rfl⟩ := requestOf_writeReg hr
    · rw [requestLegal_register (.inl rfl)]; rfl
    · rfl
  | selch f | acq f =>
    cases hr
    rw [outcomeAllowed]
    split <;> rfl
  | _ => cases hr; rfl

/-- The row of an instruction whose request is legal is what its micro-ops can end with. -/
theorem outcomeAllowed_legal (s : State) (e : Status) (hr : requestOf i = some r) (hl : requestLegal r = true) :
    outcomeAllowed s.cfg i e = opsCanEnd s.cfg (opsLeft (accepted r s)) e := by
  cases i with
  | wreg f =>
    cases hr
    rw [requestLegal_register (.inl rfl)] at hl
    rw [opsLeft_wreg, opsCanEnd_write (by simp) rfl, outcomeAllowed, regInRange, hl]
  | rreg f =>
    cases hr
    rw [requestLegal_register (.inr rfl)] at hl
    rw [opsLeft_rreg, opsCanEnd_noWait (by simp) rfl, outcomeAllowed, regInRange, hl]
  | rdid f =>
    cases hr
    rw [opsLeft_rdid, opsCanEnd_wait, opsCanEnd_noWait (by simp) rfl]
    cases e with
    | transportError => exact (Bool.or_true _).symm
    | ok | timeoutError | invalidChannel | illegalRequest => rfl
  | waitrdy f =>
    cases hr
    rw [opsLeft_waitrdy, opsCanEnd_wait]
    cases e with
    | transportError => exact (Bool.or_false _).symm.trans (Bool.or_false _).symm
    | ok | timeoutError | invalidChannel | illegalRequest => rfl
  | selch f =>
    cases hr
    rw [outcomeAllowed]
    split
    · rename_i hpin
      rw [opsLeft_selch_invalid hpin]
      exact (Bool.or_false _).symm
    · rename_i hpin
      rw [opsLeft_selch (Nat.not_lt.1 hpin), opsCanEnd_write (by simp) rfl]
  | acq f =>
    cases hr
    rw [outcomeAllowed]
    split
    · rename_i hpin
      rw [opsLeft_acq_invalid hpin, opsCanEnd_noWait (by simp) rfl]
    · rename_i hpin
      rw [opsLeft_acq (Nat.not_lt.1 hpin), opsCanEnd_write (by simp) rfl]
  | config f =>
    cases hr
    rw [opsLeft_config, opsCanEnd_write (by simp) rfl, outcomeAllowed]
  | cmd f =>
    cases hr
    rw [requestLegal_cmd] at hl
    rw [opsLeft_cmd, opsCanEnd_noWait (by simp) rfl, outcomeAllowed, hl]
  | readReg reg n =>
    obtain ⟨-, rfl⟩ := requestOf_readReg hr
    rw [requestLegal_register (.inr rfl)] at hl
    rw [rregRequest, opsLeft_rreg, opsCanEnd_noWait (by simp) rfl, outcomeAllowed, regInRange, ← hl]
    rfl
  | writeReg reg vs =>
    obtain ⟨v, -, rfl⟩ | ⟨v0, v1, v2, v3, -, rfl, rfl⟩ := requestOf_writeReg hr
    · rw [requestLegal_register (.inl rfl)] at hl
      rw [opsLeft_wregRequest, opsCanEnd_write (by simp) rfl, outcomeAllowed, regInRange, ← hl]
      rfl
    · rw [opsLeft_configRequest, opsCanEnd_write (by simp) rfl]
      rfl
  | _ =>
    cases hr
    rw [cmdRequest, opsLeft_cmd, opsCanEnd_noWait (by simp) rfl]
    rfl

end

/-- Settles O56: a legal request ends with a code of its micro-program, an illegal one with IllegalRequest, and these
are the codes of the row. -/
theorem outcomesFollowTheMatrix : Obligations.OutcomesFollowTheMatrix := by
  intro i s t hb h hidle
  obtain ⟨r, hr, ⟨hl, rfl⟩ | ⟨hl, rfl⟩⟩ := exec_idle hb h
  · rw [outcomeAllowed_legal s _ hr hl]
    exact runOp_canEnd hidle
  · exact (outcomeAllowed_illegalRequest s.cfg hr).trans (by rw [hl]; rfl)

end Sys2Proof.Machine
end

section
/-! PROOFS. The statements on the reset input and on an APC with nothing to do (spec/70_reset_and_hazards.md R300,
R301). -/

namespace Sys2Proof.Machine

/-- Settles O17: an idle APC with nothing presented takes the waiting branch of `step`. -/
theorem stepIdleWaits : Obligations.StepIdleWaits := fun _ => step_waits

/-- Settles O19: the reset input wins over every other branch of `step`, and `applyReset` writes the registers only. -/
theorem resetInputResets : Obligations.ResetInputResets := fun _ => step_reset

end Sys2Proof.Machine
end
